-- ==== Sys2Proof/Word.lean ====
section
/-! DEFINITION. The word, byte and field types of FP12E: what the spec treats as bits. -/

namespace Sys2Proof

/-- A 32-bit word: a command word, or one host bus access (00_scope.md A4, CMD_WIDTH and BUS_WIDTH). -/
abbrev Word := BitVec 32

/-- One byte of DATA (10_state.md R44). -/
abbrev Byte := BitVec 8

/-- A 4-bit register index field D, A or B of a command word (30_encoding.md R120, R122). -/
abbrev RegIx := BitVec 4

/-- The 4-bit immediate field I of a command word (30_encoding.md R120, R123). -/
abbrev Imm := BitVec 4

/-- The 8-bit opcode field OP of a command word (30_encoding.md R120, R125). -/
abbrev Opcode := BitVec 8

end Sys2Proof
end

