-- ==== Sys2Proof/Syntax.lean ====
section
/-! DEFINITION. The 24 commands of FP12E, one constructor per row of spec/opcode_table.json, with the fields of the command
word that the row's shape uses (30_encoding.md R120, R121). -/

namespace Sys2Proof

/-- A command (30_encoding.md R125). `d`, `a` and `b` are the D, A and B fields, `i` the I field. Which values a field may
take is checked by `Instr.WellFormed`. -/
inductive Instr where
  /-- NOP, shape Z (43_system.md R280). -/
  | nop
  /-- INIT, shape Z (43_system.md R282). -/
  | init
  /-- LDX Xd, #tags, shape X_T (41_data.md R200). -/
  | ldx (d : RegIx) (i : Imm)
  /-- STX Xa, shape _X (41_data.md R204). -/
  | stx (a : RegIx)
  /-- MOV Xd, Xa, shape XX (41_data.md R206). -/
  | mov (d a : RegIx)
  /-- SET1 Xd, shape X (41_data.md R208). -/
  | set1 (d : RegIx)
  /-- TAG Xd, #tags, shape X_T (41_data.md R210). -/
  | tag (d : RegIx) (i : Imm)
  /-- EQ Xa, Xb, shape _XX (41_data.md R212). -/
  | eq (a b : RegIx)
  /-- LDK Kd, #s, shape K_S (41_data.md R214). -/
  | ldk (d : RegIx) (i : Imm)
  /-- MUL Xd, Xa, Xb, shape XXX (40_tower.md R158). -/
  | mul (d a b : RegIx)
  /-- SQR Xd, Xa, shape XX (40_tower.md R160). -/
  | sqr (d a : RegIx)
  /-- CONJ Xd, Xa, shape XX (40_tower.md R162). -/
  | conj (d a : RegIx)
  /-- INV Xd, Xa, shape XX (40_tower.md R163). -/
  | inv (d a : RegIx)
  /-- DIV Xd, Xa, Xb, shape XXX (40_tower.md R165). -/
  | div (d a b : RegIx)
  /-- FROB Xd, Xa, #k, shape XX_N (40_tower.md R166). -/
  | frob (d a : RegIx) (i : Imm)
  /-- POW Xd, Xa, Kb, shape XXK (40_tower.md R167). -/
  | pow (d a b : RegIx)
  /-- LDP Pd, #inf, shape P_F (42_pairing.md R230). -/
  | ldp (d : RegIx) (i : Imm)
  /-- STP Pa, shape _P (42_pairing.md R231). -/
  | stp (a : RegIx)
  /-- LDQ Qd, shape Q (42_pairing.md R233). -/
  | ldq (d : RegIx)
  /-- FROBP Pd, Pa, shape PP (42_pairing.md R235). -/
  | frobp (d a : RegIx)
  /-- MILLER Xd, Pa, Qb, shape XPQ (42_pairing.md R240). -/
  | miller (d a b : RegIx)
  /-- FEXP Xd, Xa, shape XX (42_pairing.md R245). -/
  | fexp (d a : RegIx)
  /-- PAIR Xd, Pa, Qb, shape XPQ (42_pairing.md R247). -/
  | pair (d a b : RegIx)
  /-- MEMBER Xa, shape _X (42_pairing.md R250). -/
  | member (a : RegIx)
deriving DecidableEq, Repr

end Sys2Proof
end

