-- ==== Sys2Proof/WellFormed.lean ====
section
/-! DEFINITION. Which commands are legal: the index and immediate checks of 30_encoding.md R122 and R123. The zero fields of
R124 have no place in `Instr`, so they are the decoder's check. -/

namespace Sys2Proof

/-- A P, Q or K index is below 4 (30_encoding.md R122). -/
def RegIx.inSmallFile (r : RegIx) : Bool := r.toNat < 4

/-- A tag immediate has I[3:2] = 0 (30_encoding.md R123, `tags`). -/
def Imm.isTags (i : Imm) : Bool := i.toNat < 4

/-- A one-bit immediate has I[3:1] = 0 (30_encoding.md R123, `sign` and `inf`). -/
def Imm.isBit (i : Imm) : Bool := i.toNat < 2

/-- The command obeys 30_encoding.md R122 and R123. -/
def Instr.wellFormed : Instr → Bool
  | .nop => true
  | .init => true
  | .ldx _ i => Imm.isTags i
  | .stx _ => true
  | .mov _ _ => true
  | .set1 _ => true
  | .tag _ i => Imm.isTags i
  | .eq _ _ => true
  | .ldk d i => RegIx.inSmallFile d && Imm.isBit i
  | .mul _ _ _ => true
  | .sqr _ _ => true
  | .conj _ _ => true
  | .inv _ _ => true
  | .div _ _ _ => true
  | .frob _ _ _ => true
  | .pow _ _ b => RegIx.inSmallFile b
  | .ldp d i => RegIx.inSmallFile d && Imm.isBit i
  | .stp a => RegIx.inSmallFile a
  | .ldq d => RegIx.inSmallFile d
  | .frobp d a => RegIx.inSmallFile d && RegIx.inSmallFile a
  | .miller _ a b => RegIx.inSmallFile a && RegIx.inSmallFile b
  | .fexp _ _ => true
  | .pair _ a b => RegIx.inSmallFile a && RegIx.inSmallFile b
  | .member _ => true

/-- The command is legal as an instruction (30_encoding.md R122, R123). -/
abbrev Instr.WellFormed (i : Instr) : Prop := i.wellFormed = true

end Sys2Proof
end

