-- ==== Sys2Proof/Decode.lean ====
section
/-! DEFINITION. The decoder and the encoder of the command word (30_encoding.md R120–R129), and the opcode map as mask and
match rows (spec/opcode_table.json). -/

namespace Sys2Proof

/-! ## Fields of a command word (30_encoding.md R120) -/

/-- OP, bits [7:0]. -/
def Word.opField (w : Word) : Opcode := w.extractLsb' 0 8
/-- D, bits [11:8]. -/
def Word.dField (w : Word) : RegIx := w.extractLsb' 8 4
/-- A, bits [15:12]. -/
def Word.aField (w : Word) : RegIx := w.extractLsb' 12 4
/-- B, bits [19:16]. -/
def Word.bField (w : Word) : RegIx := w.extractLsb' 16 4
/-- I, bits [23:20]. -/
def Word.iField (w : Word) : Imm := w.extractLsb' 20 4
/-- RSV, bits [31:24]. -/
def Word.rsvField (w : Word) : BitVec 8 := w.extractLsb' 24 8

/-! ## The checks of R122–R124 -/

/-- An index into the P, Q or K file: bits [3:2] are 0 (R122). -/
def smallIndex (r : RegIx) : Bool := r.extractLsb' 2 2 == 0#2
/-- A `tags` immediate: I[3:2] = 0 (R123). -/
def tagsImm (i : Imm) : Bool := i.extractLsb' 2 2 == 0#2
/-- A `sign` or `inf` immediate: I[3:1] = 0 (R123). -/
def bitImm (i : Imm) : Bool := i.extractLsb' 1 3 == 0#3
/-- A field the shape does not use is 0 (R124). -/
def unused (f : BitVec 4) : Bool := f == 0#4

/-- The instruction if the shape's checks hold, and no instruction otherwise (R124: never read as a nearby legal one). -/
def legalIf (ok : Bool) (i : Instr) : Option Instr := if ok then some i else none

/-- The instruction that opcode `op` and the fields D, A, B, I stand for (R121, R125), or none. -/
def decodeFields (op : Opcode) (d a b : RegIx) (i : Imm) : Option Instr :=
  match op.toNat with
  | 0x00 => legalIf (unused d && unused a && unused b && unused i) .nop
  | 0x01 => legalIf (unused d && unused a && unused b && unused i) .init
  | 0x10 => legalIf (unused a && unused b && tagsImm i) (.ldx d i)
  | 0x11 => legalIf (unused d && unused b && unused i) (.stx a)
  | 0x12 => legalIf (unused b && unused i) (.mov d a)
  | 0x13 => legalIf (unused a && unused b && unused i) (.set1 d)
  | 0x14 => legalIf (unused a && unused b && tagsImm i) (.tag d i)
  | 0x15 => legalIf (unused d && unused i) (.eq a b)
  | 0x16 => legalIf (smallIndex d && unused a && unused b && bitImm i) (.ldk d i)
  | 0x20 => legalIf (unused i) (.mul d a b)
  | 0x21 => legalIf (unused b && unused i) (.sqr d a)
  | 0x22 => legalIf (unused b && unused i) (.conj d a)
  | 0x23 => legalIf (unused b && unused i) (.inv d a)
  | 0x24 => legalIf (unused i) (.div d a b)
  | 0x25 => legalIf (unused b) (.frob d a i)
  | 0x26 => legalIf (smallIndex b && unused i) (.pow d a b)
  | 0x30 => legalIf (smallIndex d && unused a && unused b && bitImm i) (.ldp d i)
  | 0x31 => legalIf (unused d && smallIndex a && unused b && unused i) (.stp a)
  | 0x32 => legalIf (smallIndex d && unused a && unused b && unused i) (.ldq d)
  | 0x33 => legalIf (smallIndex d && smallIndex a && unused b && unused i) (.frobp d a)
  | 0x34 => legalIf (smallIndex a && smallIndex b && unused i) (.miller d a b)
  | 0x35 => legalIf (unused b && unused i) (.fexp d a)
  | 0x36 => legalIf (smallIndex a && smallIndex b && unused i) (.pair d a b)
  | 0x37 => legalIf (unused d && unused b && unused i) (.member a)
  | _ => none

/-- The decoder, total on all 2³² words; none is an illegal word (R124, R126, R128). -/
def decode (w : Word) : Option Instr :=
  if w.rsvField = 0#8 then decodeFields w.opField w.dField w.aField w.bField w.iField else none

/-! ## The encoder (R127) -/

/-- The opcode of a command (R125). -/
def Instr.opcode : Instr → Opcode
  | .nop => 0x00#8
  | .init => 0x01#8
  | .ldx _ _ => 0x10#8
  | .stx _ => 0x11#8
  | .mov _ _ => 0x12#8
  | .set1 _ => 0x13#8
  | .tag _ _ => 0x14#8
  | .eq _ _ => 0x15#8
  | .ldk _ _ => 0x16#8
  | .mul _ _ _ => 0x20#8
  | .sqr _ _ => 0x21#8
  | .conj _ _ => 0x22#8
  | .inv _ _ => 0x23#8
  | .div _ _ _ => 0x24#8
  | .frob _ _ _ => 0x25#8
  | .pow _ _ _ => 0x26#8
  | .ldp _ _ => 0x30#8
  | .stp _ => 0x31#8
  | .ldq _ => 0x32#8
  | .frobp _ _ => 0x33#8
  | .miller _ _ _ => 0x34#8
  | .fexp _ _ => 0x35#8
  | .pair _ _ _ => 0x36#8
  | .member _ => 0x37#8

/-- `OP | D<<8 | A<<12 | B<<16 | I<<20` (R127), the reserved byte 0. -/
def packWord (op : Opcode) (d a b : RegIx) (i : Imm) : Word :=
  (0#8 ++ (i ++ (b ++ (a ++ (d ++ op)))) : BitVec 32)

/-- The command word of an instruction, unused fields 0 (R127). -/
def encode (instr : Instr) : Word :=
  let op := instr.opcode
  match instr with
  | .nop => packWord op 0#4 0#4 0#4 0#4
  | .init => packWord op 0#4 0#4 0#4 0#4
  | .ldx d i => packWord op d 0#4 0#4 i
  | .stx a => packWord op 0#4 a 0#4 0#4
  | .mov d a => packWord op d a 0#4 0#4
  | .set1 d => packWord op d 0#4 0#4 0#4
  | .tag d i => packWord op d 0#4 0#4 i
  | .eq a b => packWord op 0#4 a b 0#4
  | .ldk d i => packWord op d 0#4 0#4 i
  | .mul d a b => packWord op d a b 0#4
  | .sqr d a => packWord op d a 0#4 0#4
  | .conj d a => packWord op d a 0#4 0#4
  | .inv d a => packWord op d a 0#4 0#4
  | .div d a b => packWord op d a b 0#4
  | .frob d a i => packWord op d a 0#4 i
  | .pow d a b => packWord op d a b 0#4
  | .ldp d i => packWord op d 0#4 0#4 i
  | .stp a => packWord op 0#4 a 0#4 0#4
  | .ldq d => packWord op d 0#4 0#4 0#4
  | .frobp d a => packWord op d a 0#4 0#4
  | .miller d a b => packWord op d a b 0#4
  | .fexp d a => packWord op d a 0#4 0#4
  | .pair d a b => packWord op d a b 0#4
  | .member a => packWord op 0#4 a 0#4 0#4

/-! ## The opcode map as mask and match (R126) -/

/-- The rows (match, mask) of spec/opcode_table.json, in its order. -/
def opcodeRows : List (Word × Word) :=
  [(0x00000000#32, 0xFFFFFFFF#32), (0x00000001#32, 0xFFFFFFFF#32), (0x00000010#32, 0xFFCFF0FF#32),
   (0x00000011#32, 0xFFFF0FFF#32), (0x00000012#32, 0xFFFF00FF#32), (0x00000013#32, 0xFFFFF0FF#32),
   (0x00000014#32, 0xFFCFF0FF#32), (0x00000015#32, 0xFFF00FFF#32)] ++
  [(0x00000016#32, 0xFFEFFCFF#32), (0x00000020#32, 0xFFF000FF#32), (0x00000021#32, 0xFFFF00FF#32),
   (0x00000022#32, 0xFFFF00FF#32), (0x00000023#32, 0xFFFF00FF#32), (0x00000024#32, 0xFFF000FF#32),
   (0x00000025#32, 0xFF0F00FF#32), (0x00000026#32, 0xFFFC00FF#32)] ++
  [(0x00000030#32, 0xFFEFFCFF#32), (0x00000031#32, 0xFFFFCFFF#32), (0x00000032#32, 0xFFFFFCFF#32),
   (0x00000033#32, 0xFFFFCCFF#32), (0x00000034#32, 0xFFFCC0FF#32), (0x00000035#32, 0xFFFF00FF#32),
   (0x00000036#32, 0xFFFCC0FF#32), (0x00000037#32, 0xFFFF0FFF#32)]

/-- The word belongs to a row: `word & mask == match` (R126). -/
def Word.matchesRow (w : Word) (row : Word × Word) : Bool := w &&& row.2 == row.1

/-- How many rows of the opcode map a word belongs to (R126). -/
def Word.rowCount (w : Word) : Nat := (opcodeRows.filter fun row => w.matchesRow row).length

/-! ## The table's own numbering of bits -/

/-- The instruction the decoder reads from the `nbits`-bit word `w` of the opcode table: one 32-bit word written to CMD, whose
bits the table numbers as the spec does (R120, R129). A number that needs more than 32 bits is no command. -/
def decodeTableWord (nbits w : Nat) : Option Instr :=
  let v := w % 2 ^ nbits
  if v < 2 ^ 32 then decode (BitVec.ofNat 32 v) else none

end Sys2Proof
end

