-- ==== Sys2Proof/Config.lean ====
section
/-! DEFINITION. What is fixed for the machine: the sizes and the curve constants of 00_scope.md A4 and R10, the two OPEN
parameters ENGINE_BASE and LAT, and the free value of a DATA read while BUSY = 1. -/

namespace Sys2Proof.Config

/-! ## Sizes (00_scope.md A4, R7) -/

/-- NX, the number of Fp12 registers. -/
def numX : Nat := 16
/-- NP, the number of G2 point registers. -/
def numP : Nat := 4
/-- NQ, the number of G1 point registers. -/
def numQ : Nat := 4
/-- NK, the number of exponent registers. -/
def numK : Nat := 4
/-- DATA_SIZE, the bytes of the DATA buffer. -/
def dataSize : Nat := 384
/-- WINDOW, the bytes of the host register window. -/
def windowSize : Nat := 4096
/-- ENGINE_ID, the value of the ID register, ASCII "FP12" (10_state.md R46). -/
def engineId : Word := 0x46503132#32

/-! ## Curve constants (00_scope.md R10, R239, R245: the spec's own general knowledge) -/

/-- q, the field prime (00_scope.md R10). -/
def q : Nat := 0xB640000002A3A6F1D603AB4FF58EC74521F2934B1A7AEEDBE56F9B27E351457D
/-- N, the group order (00_scope.md R10). -/
def N : Nat := 0xB640000002A3A6F1D603AB4FF58EC74449F2934B18EA8BEEE56EE19CD69ECF25
/-- t, the BN loop parameter (00_scope.md R10). -/
def t : Nat := 0x600000000058F98A
/-- a, a coefficient of the G1 curve y² = x³ + a·x + b (00_scope.md R10). No command reads it. -/
def a : Nat := 0
/-- b, a coefficient of the G1 curve y² = x³ + a·x + b (00_scope.md R10). No command reads it. -/
def b : Nat := 5
/-- β = −2 modulo q, the non-residue with u² = β (00_scope.md R10, 40_tower.md R151). -/
def beta : Nat := q - 2
/-- n = 6t + 2, the Miller loop scalar (42_pairing.md R239). -/
def loopScalar : Nat := 6 * t + 2
/-- (q¹² − 1)/N, the final exponent (42_pairing.md R245). -/
def finalExponent : Nat := (q ^ 12 - 1) / N
/-- The value INIT derives for F, u^((q−1)/6): its coefficient of 1, the other being 0 (43_system.md R282). Stated for
claims only: INIT computes the power. -/
def frobeniusValue : Nat := 0x3F23EA58E5720BDB843C6CFA9C08674947C5C86E0DDD04EDA91D8354377B698B

theorem q_pos : 0 < q := by decide

/-! ## Open parameters and free values -/

/-- The page number of the window on the host's bus: free (log 3). -/
opaque enginePage : Nat

/-- ENGINE_BASE, a multiple of 4096 (20_memory.md R81, D40; log 3). -/
def engineBase : Nat := enginePage * 4096

/-- One less than LAT, the clock periods BUSY stays 1, for command word `c` accepted at draw `n`: free, so that LAT is any
finite number of at least 1 (70_reset_and_hazards.md R362; log 2). -/
opaque latency (c : Word) (n : Nat) : Nat

/-- What the host reads from DATA while BUSY = 1, at draw `n`: free (20_memory.md R88, 93 A1; log 4). -/
opaque busyDataRead (n : Nat) : Word

end Sys2Proof.Config
end

