-- ==== Sys2Proof/Machine/Values.lean ====
section
/-! DEFINITION. The values registers hold: field elements, points and exponents (10_state.md R31, R39–R41;
40_tower.md R150–R155). -/

namespace Sys2Proof.Machine

/-- An Fp value: an integer in [0, q) (40_tower.md R150). The bound is part of the type, which is 10_state.md R34: every
limb of every register is always fully reduced. -/
abbrev Fp := Fin Config.q

/-- An Fp2 value x0 + x1·u (40_tower.md R151). -/
structure Fp2 where
  x0 : Fp
  x1 : Fp
deriving DecidableEq, Repr

/-- An Fp4 value y0 + y1·v (40_tower.md R152). -/
structure Fp4 where
  y0 : Fp2
  y1 : Fp2
deriving DecidableEq, Repr

/-- An Fp12 value a·w² + b·w + c (40_tower.md R153). -/
structure Fp12 where
  a : Fp4
  b : Fp4
  c : Fp4
deriving DecidableEq, Repr

/-- What a written Fp12 register holds: a value and the tags U (unitary) and M (miller) (10_state.md R31, R36, R37). -/
structure Tagged where
  val : Fp12
  u : Bool
  m : Bool
deriving DecidableEq, Repr

/-- What a written G2 point register holds: the infinity marker and affine coordinates over Fp2 (10_state.md R39). -/
structure G2Point where
  inf : Bool
  x : Fp2
  y : Fp2
deriving DecidableEq, Repr

/-- Affine coordinates over Fp2 of a finite point: what the Miller loop combines (42_pairing.md R238). -/
structure Affine2 where
  x : Fp2
  y : Fp2
deriving DecidableEq, Repr

/-- What a written G1 point register holds (10_state.md R41). -/
structure G1Point where
  x : Fp
  y : Fp
deriving DecidableEq, Repr

/-- What a written exponent register holds: sign S and magnitude MAG (10_state.md R40). -/
structure Exponent where
  s : Bool
  mag : BitVec 256
deriving DecidableEq, Repr

/-- The error codes a failed command reports; "no error" (code 0) is the absence of one (60_exceptions.md R300). -/
inductive ErrorCode where
  /-- E_ILLEGAL: the command word is illegal (R301). -/
  | illegal
  /-- E_NOT_INIT: a command other than NOP or INIT while INIT_DONE = 0 (R302). -/
  | notInit
  /-- E_REINIT: INIT while INIT_DONE = 1 (R302). -/
  | reinit
  /-- E_UNWRITTEN: a source register is unwritten (R303). -/
  | unwritten
  /-- E_RANGE: a loaded limb is q or more (R304). -/
  | range
  /-- E_ZERO_INV: an inverse of zero outside the Miller loop (R305). -/
  | zeroInv
  /-- E_PAIR: the Miller loop meets a degenerate input (R306). -/
  | pair
deriving DecidableEq, Repr

/-- The number STATUS.ERRCODE shows for an error (60_exceptions.md R300). -/
def ErrorCode.number : ErrorCode → BitVec 8
  | .illegal => 1#8
  | .notInit => 2#8
  | .reinit => 3#8
  | .unwritten => 4#8
  | .range => 5#8
  | .zeroInv => 6#8
  | .pair => 7#8

/-- The integer (−1)^S · MAG (10_state.md R40). -/
def Exponent.toInt (k : Exponent) : Int := if k.s then -(k.mag.toNat : Int) else (k.mag.toNat : Int)

/-- The residue of `n` modulo q (00_scope.md R13). -/
def Fp.ofNat (n : Nat) : Fp := ⟨n % Config.q, Nat.mod_lt n Config.q_pos⟩

/-- The 12 limbs L0–L11 of a value, in serialization order (40_tower.md R154). -/
def Fp12.limbs (x : Fp12) : List Fp :=
  [x.a.y1.x1, x.a.y1.x0, x.a.y0.x1, x.a.y0.x0, x.b.y1.x1, x.b.y1.x0, x.b.y0.x1, x.b.y0.x0,
   x.c.y1.x1, x.c.y1.x0, x.c.y0.x1, x.c.y0.x0]

/-- The value with limbs L0–L11 in serialization order (40_tower.md R154). -/
def Fp12.ofLimbs (l0 l1 l2 l3 l4 l5 l6 l7 l8 l9 l10 l11 : Fp) : Fp12 :=
  { a := ⟨⟨l3, l2⟩, ⟨l1, l0⟩⟩, b := ⟨⟨l7, l6⟩, ⟨l5, l4⟩⟩, c := ⟨⟨l11, l10⟩, ⟨l9, l8⟩⟩ }

end Sys2Proof.Machine
end

