-- ==== Sys2Proof/Machine/Tower.lean ====
section
/-! DEFINITION. The arithmetic of the tower Fp, Fp2, Fp4, Fp12 (40_tower.md R150–R155, R161, R162, R164, R166, R167). -/

namespace Sys2Proof.Machine

/-! ## Exponentiation by squaring -/

/-- `bitlen(n)` (00_scope.md R16). -/
def bitlen (n : Nat) : Nat := if n = 0 then 0 else n.log2 + 1

/-- The loop indices `h − 1 downto 0` (00_scope.md R16). -/
def downFrom (h : Nat) : List Nat := (List.range h).reverse

/-- One iteration of MSB-first square-and-multiply for bit `i` of `e` (40_tower.md R167). -/
def squareMultiplyStep {α : Type} (sqr : α → α) (mul : α → α → α) (base : α) (e : Nat) (r : α) (i : Nat) : α :=
  if e.testBit i then mul (sqr r) base else sqr r

/-- MSB-first square-and-multiply of `base` to the power `e` > 0: start from `base`, then bits bitlen(e) − 2 down to 0
(40_tower.md R167). -/
def squareMultiply {α : Type} (sqr : α → α) (mul : α → α → α) (base : α) (e : Nat) : α :=
  (downFrom (bitlen e - 1)).foldl (squareMultiplyStep sqr mul base e) base

/-! ## Fp (40_tower.md R150) -/

namespace Fp

def zero : Fp := ofNat 0
def one : Fp := ofNat 1
/-- β = −2 (40_tower.md R151). -/
def beta : Fp := ofNat Config.beta
/-- −x modulo q, with −0 = 0 (40_tower.md R162). -/
def neg (x : Fp) : Fp := zero - x
/-- x⁻¹ for x ≠ 0 (40_tower.md R150), as x^(q−2): q is prime (00_scope.md R11). The value is normative, the method is the
model's (log 13). At 0 it gives 0, which no command uses. -/
def inv (x : Fp) : Fp := squareMultiply (fun r => r * r) (fun r s => r * s) x (Config.q - 2)

end Fp

/-! ## Fp2 = Fp[u]/(u² − β) (40_tower.md R151) -/

namespace Fp2

def zero : Fp2 := ⟨Fp.zero, Fp.zero⟩
def one : Fp2 := ⟨Fp.one, Fp.zero⟩
/-- The generator u. -/
def u : Fp2 := ⟨Fp.zero, Fp.one⟩
/-- An Fp value as an Fp2 value. -/
def ofFp (x : Fp) : Fp2 := ⟨x, Fp.zero⟩
def add (x y : Fp2) : Fp2 := ⟨x.x0 + y.x0, x.x1 + y.x1⟩
def sub (x y : Fp2) : Fp2 := ⟨x.x0 - y.x0, x.x1 - y.x1⟩
def neg (x : Fp2) : Fp2 := ⟨x.x0.neg, x.x1.neg⟩
def mul (x y : Fp2) : Fp2 := ⟨x.x0 * y.x0 + Fp.beta * (x.x1 * y.x1), x.x0 * y.x1 + x.x1 * y.x0⟩
/-- The product by an Fp value. -/
def scale (k : Fp) (x : Fp2) : Fp2 := ⟨k * x.x0, k * x.x1⟩
/-- conj2, which equals the q-th power. -/
def conj (x : Fp2) : Fp2 := ⟨x.x0, x.x1.neg⟩
/-- Multiplication by u: (x0, x1) to (β·x1, x0) (40_tower.md R152). -/
def mulU (x : Fp2) : Fp2 := ⟨Fp.beta * x.x1, x.x0⟩
/-- The norm n = x0² − β·x1² to Fp. -/
def norm (x : Fp2) : Fp := x.x0 * x.x0 - Fp.beta * (x.x1 * x.x1)
def inv (x : Fp2) : Fp2 := scale (norm x).inv (conj x)
def square (x : Fp2) : Fp2 := mul x x
/-- The power of exponent e > 0. -/
def pow (x : Fp2) (e : Nat) : Fp2 := squareMultiply square mul x e

end Fp2

/-! ## Fp4 = Fp2[v]/(v² − u) (40_tower.md R152) -/

namespace Fp4

def zero : Fp4 := ⟨Fp2.zero, Fp2.zero⟩
def one : Fp4 := ⟨Fp2.one, Fp2.zero⟩
def add (x y : Fp4) : Fp4 := ⟨x.y0.add y.y0, x.y1.add y.y1⟩
def sub (x y : Fp4) : Fp4 := ⟨x.y0.sub y.y0, x.y1.sub y.y1⟩
def neg (x : Fp4) : Fp4 := ⟨x.y0.neg, x.y1.neg⟩
def mul (x y : Fp4) : Fp4 :=
  ⟨(x.y0.mul y.y0).add (x.y1.mul y.y1).mulU, (x.y0.mul y.y1).add (x.y1.mul y.y0)⟩
/-- The product by a small integer. -/
def scaleNat (k : Nat) (x : Fp4) : Fp4 := ⟨x.y0.scale (Fp.ofNat k), x.y1.scale (Fp.ofNat k)⟩
/-- The product by an Fp2 value, applied to both halves (40_tower.md R166). -/
def scale2 (k : Fp2) (x : Fp4) : Fp4 := ⟨x.y0.mul k, x.y1.mul k⟩
/-- conj4. -/
def conj (x : Fp4) : Fp4 := ⟨x.y0, x.y1.neg⟩
/-- Multiplication by v: (y0, y1) to (u·y1, y0). -/
def mulV (x : Fp4) : Fp4 := ⟨x.y1.mulU, x.y0⟩
/-- The norm m = y0² − u·y1² to Fp2. -/
def norm (x : Fp4) : Fp2 := (x.y0.mul x.y0).sub (x.y1.mul x.y1).mulU
def inv (x : Fp4) : Fp4 :=
  let c := conj x
  let m := x.norm.inv
  ⟨c.y0.mul m, c.y1.mul m⟩
def square (x : Fp4) : Fp4 := mul x x

end Fp4

/-! ## Fp12 = Fp4[w]/(w³ − v) (40_tower.md R153) -/

namespace Fp12

/-- Every limb 0 (40_tower.md R155). -/
def zero : Fp12 := ⟨Fp4.zero, Fp4.zero, Fp4.zero⟩
/-- L11 = 1, every other limb 0 (40_tower.md R155). -/
def one : Fp12 := ⟨Fp4.zero, Fp4.zero, Fp4.one⟩

/-- The product of 40_tower.md R153. -/
def mul (x y : Fp12) : Fp12 :=
  { a := ((x.a.mul y.c).add (x.b.mul y.b)).add (x.c.mul y.a)
    b := ((x.b.mul y.c).add (x.c.mul y.b)).add (x.a.mul y.a).mulV
    c := (x.c.mul y.c).add ((x.b.mul y.a).add (x.a.mul y.b)).mulV }

/-- The exact square x·x (40_tower.md R160). -/
def square (x : Fp12) : Fp12 := mul x x

/-- GS, the unitary-squaring formula (40_tower.md R161). -/
def gs (x : Fp12) : Fp12 :=
  { a := (x.b.square.scaleNat 3).sub (x.a.conj.scaleNat 2)
    b := (x.a.square.mulV.scaleNat 3).add (x.b.conj.scaleNat 2)
    c := (x.c.square.scaleNat 3).sub (x.c.conj.scaleNat 2) }

/-- The conjugate (40_tower.md R162). -/
def conj (x : Fp12) : Fp12 := ⟨x.a.conj, x.b.conj.neg, x.c.conj⟩

/-- x⁻¹ for x ≠ 0, by the norm to Fp4 (40_tower.md R164). -/
def inv (x : Fp12) : Fp12 :=
  let ra := (x.c.mul x.c).sub (x.a.mul x.b).mulV
  let rb := (x.a.mul x.a).mulV.sub (x.b.mul x.c)
  let rc := (x.b.mul x.b).sub (x.a.mul x.c)
  let n := (x.c.mul ra).add ((x.b.mul rc).add (x.a.mul rb)).mulV
  let ni := n.inv
  ⟨rc.mul ni, rb.mul ni, ra.mul ni⟩

/-- The exact power x^e (e = 0 gives 1): 42_pairing.md R245's value, any method. -/
def pow (x : Fp12) (e : Nat) : Fp12 := if e = 0 then one else squareMultiply square mul x e

/-- φ4 of 40_tower.md R166, with the Frobenius constant `f`. -/
def phi4 (f : Fp2) (y : Fp4) : Fp4 := ⟨y.y0.conj, (y.y1.conj).mul (f.pow 3)⟩

/-- φ of 40_tower.md R166, with the Frobenius constant `f`. -/
def phi (f : Fp2) (x : Fp12) : Fp12 := ⟨(phi4 f x.a).scale2 (f.pow 2), (phi4 f x.b).scale2 f, phi4 f x.c⟩

/-- φ repeated k times (40_tower.md R166). -/
def frob (f : Fp2) : Nat → Fp12 → Fp12
  | 0, x => x
  | k + 1, x => frob f k (phi f x)

end Fp12

end Sys2Proof.Machine
end

