-- ==== Sys2Proof/Machine/Curve.lean ====
section
/-! DEFINITION. The values the tag-dependent tower commands and the pairing commands compute (40_tower.md R160, R163, R167;
42_pairing.md R235–R250). -/

namespace Sys2Proof.Machine

/-- `if ¬ ok then raise Error(code)` (00_scope.md R14). -/
def require (ok : Bool) (code : ErrorCode) : Except ErrorCode Unit := if ok then .ok () else .error code

/-! ## Tag-dependent values (40_tower.md) -/

/-- SQR-value: GS when U = 1, the exact square otherwise (40_tower.md R160). -/
def sqrValue (x : Fp12) (u : Bool) : Fp12 := if u then x.gs else x.square

/-- INV-value: the conjugate when U = 1, the inverse otherwise, which 0 has not (40_tower.md R163). -/
def invValue (x : Fp12) (u : Bool) : Except ErrorCode Fp12 :=
  if u then .ok x.conj
  else if x = Fp12.zero then .error .zeroInv
  else .ok x.inv

/-- The square-and-multiply chain of POW for exponent e > 0 (40_tower.md R167). -/
def powChain (base : Fp12) (u : Bool) (e : Nat) : Fp12 :=
  squareMultiply (fun r => sqrValue r u) Fp12.mul base e

/-- POW-value of `x` with U tag `u` (40_tower.md R167). -/
def powValue (x : Fp12) (u : Bool) (k : Int) : Except ErrorCode Fp12 :=
  if k = 0 then .ok Fp12.one
  else if k < 0 then
    match invValue x u with
    | .ok base => .ok (powChain base u k.natAbs)
    | .error c => .error c
  else .ok (powChain x u k.natAbs)

/-- FEXP-value: the exact power (q¹² − 1)/N (42_pairing.md R245). -/
def fexpValue (x : Fp12) : Fp12 := x.pow Config.finalExponent

/-! ## The Frobenius map on G2 (42_pairing.md R235) -/

/-- FROBP on finite coordinates: (conj2(x)·F⁻², conj2(y)·F⁻³). -/
def frobAffine (f : Fp2) (p : Affine2) : Affine2 :=
  let fi := f.inv
  ⟨p.x.conj.mul (fi.pow 2), p.y.conj.mul (fi.pow 3)⟩

/-- FROBP-value on a G2 register's contents. -/
def frobPoint (f : Fp2) (p : G2Point) : G2Point :=
  if p.inf then ⟨true, Fp2.zero, Fp2.zero⟩
  else
    let r := frobAffine f ⟨p.x, p.y⟩
    ⟨false, r.x, r.y⟩

/-! ## Lines and steps (42_pairing.md R237, R238) -/

/-- line(T, λ, Q): −λ·xQ in the a0 slot, λ·xT − yT in the c0 slot, yQ in the c10 slot, every other limb 0 (R237). -/
def lineValue (tt : Affine2) (slope : Fp2) (g : G1Point) : Fp12 :=
  { a := ⟨(Fp2.scale g.x slope).neg, Fp2.zero⟩
    b := Fp4.zero
    c := ⟨(slope.mul tt.x).sub tt.y, Fp2.ofFp g.y⟩ }

/-- The slope of the tangent (equal points) or chord, E_PAIR where it would invert zero (R238). -/
def stepSlope (tt ss : Affine2) : Except ErrorCode Fp2 :=
  if tt.x = ss.x then
    if tt.y ≠ ss.y ∨ tt.y = Fp2.zero then .error .pair
    else .ok ((Fp2.scale (Fp.ofNat 3) (tt.x.mul tt.x)).mul (Fp2.scale (Fp.ofNat 2) tt.y).inv)
  else .ok ((ss.y.sub tt.y).mul (ss.x.sub tt.x).inv)

/-- The point a Step advances T to, for the slope `l` (R238). -/
def stepPoint (tt ss : Affine2) (l : Fp2) : Affine2 :=
  let x3 := ((l.mul l).sub tt.x).sub ss.x
  ⟨x3, (l.mul (tt.x.sub x3)).sub tt.y⟩

/-- The Miller accumulator: f and T (42_pairing.md R240). -/
structure MillerAcc where
  f : Fp12
  pt : Affine2
deriving DecidableEq, Repr

/-- Step(f, T, S, Q) (R238). -/
def millerStep (acc : MillerAcc) (ss : Affine2) (g : G1Point) : Except ErrorCode MillerAcc :=
  match stepSlope acc.pt ss with
  | .error c => .error c
  | .ok l => .ok ⟨acc.f.mul (lineValue acc.pt l g), stepPoint acc.pt ss l⟩

/-- One loop iteration for bit `i` of n: square, DOUBLE, and on a set bit ADD (42_pairing.md R240). -/
def millerIter (p : Affine2) (g : G1Point) (acc : MillerAcc) (i : Nat) : Except ErrorCode MillerAcc :=
  match millerStep ⟨acc.f.square, acc.pt⟩ acc.pt g with
  | .error c => .error c
  | .ok acc' => if Config.loopScalar.testBit i then millerStep acc' p g else .ok acc'

/-- The loop over the given bit positions, stopping at the first failure (42_pairing.md R240). -/
def millerLoop (p : Affine2) (g : G1Point) : List Nat → MillerAcc → Except ErrorCode MillerAcc
  | [], acc => .ok acc
  | i :: is, acc =>
    match millerIter p g acc i with
    | .error c => .error c
    | .ok acc' => millerLoop p g is acc'

/-- FROBENIUS-CORRECTION: the Steps with K1 = FROBP(P) and K2 = −FROBP(K1) (42_pairing.md R240). -/
def millerCorrect (f : Fp2) (p : Affine2) (g : G1Point) (acc : MillerAcc) : Except ErrorCode MillerAcc :=
  let k1 := frobAffine f p
  let k1' := frobAffine f k1
  match millerStep acc k1 g with
  | .error c => .error c
  | .ok acc' => millerStep acc' ⟨k1'.x, k1'.y.neg⟩ g

/-- MILLER-value with the Frobenius constant `f`, or E_PAIR (42_pairing.md R240). -/
def millerValue (f : Fp2) (p : G2Point) (g : G1Point) : Except ErrorCode Fp12 :=
  if p.inf then .error .pair
  else
    let pt : Affine2 := ⟨p.x, p.y⟩
    match millerLoop pt g (downFrom (bitlen Config.loopScalar - 1)) ⟨Fp12.one, pt⟩ with
    | .error c => .error c
    | .ok acc =>
      match millerCorrect f pt g acc with
      | .error c => .error c
      | .ok acc' => if acc'.f = Fp12.zero then .error .pair else .ok acc'.f

/-- PAIR-value: FEXP-value of MILLER-value (42_pairing.md R247). -/
def pairValue (f : Fp2) (p : G2Point) (g : G1Point) : Except ErrorCode Fp12 :=
  match millerValue f p g with
  | .error c => .error c
  | .ok m => .ok (fexpValue m)

/-! ## MEMBER (42_pairing.md R250) -/

/-- MEMBER's answer for `x` with U tag `u`: x^q against ((x^t)^t)^6, 0 for x = 0 (R250). -/
def memberValue (f : Fp2) (x : Fp12) (u : Bool) : Bool :=
  if x = Fp12.zero then false
  else Fp12.frob f 1 x = powChain (powChain (powChain x u Config.t) u Config.t) u 6

end Sys2Proof.Machine
end

