-- ==== Sys2Proof/Machine/Memory.lean ====
section
/-! DEFINITION. The DATA buffer as plain data: sorted (offset, byte) pairs, keyed by the DATA byte offset of D[0]–D[383]
(10_state.md R44), and the primitives MemRead and MemWrite (00_scope.md R14). -/

namespace Sys2Proof.Machine

/-- DATA's listed bytes by offset. -/
abbrev Memory := List Host.Cell

/-- What an unlisted offset reads as: the reset contents of DATA, a zero byte (10_state.md R44, 70_reset_and_hazards.md R340). -/
def unlistedByte : Byte := 0#8

/-- The one canonical form: offsets strictly rising, no entry equal to what an unlisted offset reads as. -/
abbrev Memory.wf (m : Memory) : Prop :=
  m.Pairwise (fun c c' => c.1 < c'.1) ∧ ∀ c ∈ m, c.2 ≠ unlistedByte

/-- Every listed offset is an offset of DATA (10_state.md R44). -/
abbrev Memory.inData (m : Memory) : Prop := ∀ c ∈ m, c.1 < Config.dataSize

/-- The byte at offset `o`. -/
def Memory.read : Memory → Nat → Byte
  | [], _ => unlistedByte
  | (k, v) :: m, o => if o = k then v else Memory.read m o

/-- The entry for byte `b` at offset `o`, in front of `m`: none where `b` is what an unlisted offset reads as. -/
def Memory.entry (o : Nat) (b : Byte) (m : Memory) : Memory := if b = unlistedByte then m else (o, b) :: m

/-- Store byte `b` at offset `o`, keeping the canonical form. -/
def Memory.write : Memory → Nat → Byte → Memory
  | [], o, b => Memory.entry o b []
  | (k, v) :: m, o, b =>
    if o < k then Memory.entry o b ((k, v) :: m)
    else if o = k then Memory.entry o b m
    else (k, v) :: Memory.write m o b

/-- MemRead(off, n): n bytes as one big-endian unsigned integer (00_scope.md R14, 20_memory.md R85). -/
def Memory.readNat (m : Memory) (off : Nat) : Nat → Nat
  | 0 => 0
  | n + 1 => Memory.readNat m off n * 256 + (m.read (off + n)).toNat

/-- MemWrite(off, n, v): the n-byte big-endian form of v (00_scope.md R14, 20_memory.md R85). -/
def Memory.writeNat (m : Memory) (off : Nat) : Nat → Nat → Memory
  | 0, _ => m
  | n + 1, v => (Memory.writeNat m off n (v / 256)).write (off + n) (BitVec.ofNat 8 v)

/-- 32-byte limbs stored one after the other from offset `off` (41_data.md R204, 42_pairing.md R231). -/
def Memory.writeLimbs (m : Memory) (off : Nat) : List Nat → Memory
  | [] => m
  | l :: ls => Memory.writeLimbs (m.writeNat off 32 l) (off + 32) ls

end Sys2Proof.Machine
end

