-- ==== Sys2Proof/Machine/State.lean ====
section
/-! DEFINITION. The state of FP12E as plain data (10_state.md R30), the reasons a step can stop, and the state right after
reset (10_state.md I1, 70_reset_and_hazards.md R340). -/

namespace Sys2Proof.Machine

/-- What the host or the reset input does in one clock period (20_memory.md host interface table, 70 R340; log 1). Addresses are
host addresses, `size` is the width of the access in bytes. -/
inductive HostAction where
  /-- Nothing. -/
  | idle
  /-- A read of `size` bytes at host address `addr`. -/
  | read (addr size : Nat)
  /-- A write of `v` (its low `size` bytes) at host address `addr`. -/
  | write (addr size : Nat) (v : Word)
  /-- The reset input is asserted, and reset takes effect (70_reset_and_hazards.md R340). -/
  | assertReset
  /-- The reset input is released. -/
  | releaseReset
deriving DecidableEq, Repr

/-- What a host access got back (20_memory.md R83, R84; log 7). -/
inductive Reply where
  /-- There has been no access yet. -/
  | none
  /-- The 32 bits a read returned. -/
  | data (v : Word)
  /-- A write was taken (which does not say that it changed anything). -/
  | written
  /-- The access was answered as a bus error (20_memory.md R83). -/
  | busError
deriving DecidableEq, Repr

/-- LATCH while it is not empty: the command word accepted and not yet finished (10_state.md R56), and the model's own count of
clock periods left before its engine step (70_reset_and_hazards.md R362; log 2). -/
structure Pending where
  word : Word
  wait : Nat
deriving DecidableEq, Repr

/-- The state. A register entry that is `none` is a register whose written bit W is 0 (10_state.md R35): the spec gives it no
value (I1 table), and reading it is the architected error E_UNWRITTEN, not a stop of the machine (log 8). -/
structure State where
  /-- X0–X15: val, U, M, and W (R31). -/
  x : Vector (Option Tagged) 16
  /-- P0–P3 (R39). -/
  p : Vector (Option G2Point) 4
  /-- Q0–Q3 (R41). -/
  q : Vector (Option G1Point) 4
  /-- K0–K3 (R40). -/
  k : Vector (Option Exponent) 4
  /-- F, the Frobenius constant register (R42). -/
  f : Option Fp2
  /-- DATA, D[0]–D[383] (R44). -/
  data : Memory
  /-- CTRL.IRQ_EN (R47). -/
  irqEn : Bool
  /-- STATUS.DONE (R49). -/
  done : Bool
  /-- STATUS.ERR and STATUS.ERRCODE: ERR = 1 iff there is a code (R50, R52; log 9). -/
  err : Option ErrorCode
  /-- STATUS.OVR (R51). -/
  ovr : Bool
  /-- STATUS.INIT_DONE (R52). -/
  initDone : Bool
  /-- STATUS.RESULT (R45, R52). -/
  result : Bool
  /-- ERRCMD (R54). -/
  errcmd : Word
  /-- LATCH and STATUS.BUSY: BUSY = 1 iff LATCH is not empty (R48, R56; log 9). -/
  latch : Option Pending
  /-- The reset input: true while it is asserted (70_reset_and_hazards.md R340). -/
  rstIn : Bool
  /-- The model's own: the host's and the reset input's pending actions, one a clock period, oldest first (log 1). -/
  host : List HostAction
  /-- The model's own: what the last host access got back (log 7). -/
  reply : Reply
  /-- The model's own: how many free values have been drawn (log 4). -/
  draws : Nat
deriving DecidableEq, Repr

/-- Why the machine stops with a fault. No engine error is one: those are next states (60_exceptions.md R310). -/
inductive Fault where
  /-- Raised by a host access at an address outside the window, the machine's only address space (20_memory.md R81). Safe: the
  spec has the model reject such a host program (log 6). -/
  | outsideWindow
deriving DecidableEq, Repr

/-- Why the machine refuses to go on. -/
inductive Refusal where
  /-- Raised by an instruction that has no meaning yet, named by its mnemonic. Safe. No instruction is left so. -/
  | notModelled (mnemonic : String)
  /-- Raised by a host access while the reset input is asserted: it has no defined effect, and "the model refuses a host program
  that makes one" (70_reset_and_hazards.md R340). Safe (log 5). -/
  | accessInReset
deriving DecidableEq, Repr

/-- The outcome of a step. -/
abbrev StepResult := Host.Outcome State Fault Refusal

/-- The state right after reset: every register unwritten, DATA zero, CTRL, STATUS and ERRCMD 0, LATCH empty (10_state.md I1,
70_reset_and_hazards.md R340). The reset input is released and the model's own fields are empty (log 16). -/
def State.reset : State :=
  { x := Vector.replicate 16 none
    p := Vector.replicate 4 none
    q := Vector.replicate 4 none
    k := Vector.replicate 4 none
    f := none
    data := []
    irqEn := false
    done := false
    err := none
    ovr := false
    initDone := false
    result := false
    errcmd := 0#32
    latch := none
    rstIn := false
    host := []
    reply := .none
    draws := 0 }

end Sys2Proof.Machine
end

