-- ==== Sys2Proof/Machine/Flags.lean ====
section
/-! DEFINITION. Every flag: the tags U and M of an Fp12 result (40_tower.md R156), the STATUS and CTRL words
(10_state.md R47–R52), and the interrupt line (R58). -/

namespace Sys2Proof.Machine

/-! ## Tag propagation (40_tower.md R156) -/

/-- The result of MUL and DIV: U is the and of the sources' U, M the or of their M. -/
def Tagged.combine (v : Fp12) (x y : Tagged) : Tagged := ⟨v, x.u && y.u, x.m || y.m⟩

/-- The result of SQR, CONJ, INV, FROB, POW and MOV: the source's tags. -/
def Tagged.keep (v : Fp12) (x : Tagged) : Tagged := ⟨v, x.u, x.m⟩

/-- The result of LDX and TAG: U = I[0], M = I[1]. -/
def Tagged.ofImm (v : Fp12) (i : Imm) : Tagged := ⟨v, i.getLsbD 0, i.getLsbD 1⟩

/-- The result of SET1, FEXP and PAIR: U = 1, M = 0. -/
def Tagged.unitary (v : Fp12) : Tagged := ⟨v, true, false⟩

/-- The result of MILLER: U = 0, M = 1. -/
def Tagged.miller (v : Fp12) : Tagged := ⟨v, false, true⟩

/-! ## STATUS, CTRL and IRQ (10_state.md R47–R52, R58) -/

/-- STATUS.BUSY: LATCH holds a command (R48, R56). -/
def State.busy (s : State) : Bool := s.latch.isSome

/-- STATUS.ERRCODE: the failed command's code while ERR = 1, and 0 while ERR = 0 (R52). -/
def State.errcode (s : State) : BitVec 8 :=
  match s.err with
  | none => 0#8
  | some c => c.number

/-- The STATUS word: bits 0 BUSY, 1 DONE, 2 ERR, 3 OVR, 4 INIT_DONE, 5 RESULT, [15:8] ERRCODE, the others 0 (R48–R52). -/
def State.statusWord (s : State) : Word :=
  (0#16 ++ (s.errcode ++ (0#2 ++ (BitVec.ofBool s.result ++ (BitVec.ofBool s.initDone ++ (BitVec.ofBool s.ovr ++
    (BitVec.ofBool s.err.isSome ++ (BitVec.ofBool s.done ++ BitVec.ofBool s.busy))))))) : BitVec 32)

/-- The CTRL word: bit 0 IRQ_EN, the others 0 (R47). -/
def State.ctrlWord (s : State) : Word := (0#31 ++ BitVec.ofBool s.irqEn : BitVec 32)

/-- IRQ, the level output (R58, 60_exceptions.md R314). -/
def State.irq (s : State) : Bool := s.irqEn && (s.done || s.err.isSome || s.ovr)

/-- RESULT <- b (00_scope.md R14, 10_state.md R45). -/
def State.setResult (s : State) (b : Bool) : State := { s with result := b }

end Sys2Proof.Machine
end

