-- ==== Sys2Proof/Machine/Ops.lean ====
section
/-! DEFINITION. The shared operations: register reads and writes with the written bit, the end of a command (completion, error
entry), the return from an error, and reset. -/

namespace Sys2Proof.Machine

/-! ## Register files (00_scope.md R14, 10_state.md R35, 60_exceptions.md R303) -/

/-- Read entry `i` of a register file: E_UNWRITTEN where its written bit is 0. An index outside the file is an illegal encoding
(30_encoding.md R122), which every command has rejected before it reads. -/
def fileRead {α : Type} {n : Nat} (file : Vector (Option α) n) (i : RegIx) : Except ErrorCode α :=
  match file[i.toNat]? with
  | some (some v) => .ok v
  | some none => .error .unwritten
  | none => .error .illegal

/-- Write entry `i` of a register file and mark it written. -/
def fileWrite {α : Type} {n : Nat} (file : Vector (Option α) n) (i : RegIx) (v : α) : Vector (Option α) n :=
  file.setIfInBounds i.toNat (some v)

/-- X[i] -/
def State.readX (s : State) (i : RegIx) : Except ErrorCode Tagged := fileRead s.x i
/-- P[i] -/
def State.readP (s : State) (i : RegIx) : Except ErrorCode G2Point := fileRead s.p i
/-- Q[i] -/
def State.readQ (s : State) (i : RegIx) : Except ErrorCode G1Point := fileRead s.q i
/-- K[i] -/
def State.readK (s : State) (i : RegIx) : Except ErrorCode Exponent := fileRead s.k i

/-- F. It is unwritten only before INIT, when no command that reads it can run (10_state.md R42). A state with INIT_DONE = 1 and F
unwritten is not reachable, and the model raises E_UNWRITTEN there (log 11). -/
def State.readF (s : State) : Except ErrorCode Fp2 :=
  match s.f with
  | some v => .ok v
  | none => .error .unwritten

/-- X[i] <- v -/
def State.writeX (s : State) (i : RegIx) (v : Tagged) : State := { s with x := fileWrite s.x i v }
/-- P[i] <- v -/
def State.writeP (s : State) (i : RegIx) (v : G2Point) : State := { s with p := fileWrite s.p i v }
/-- Q[i] <- v -/
def State.writeQ (s : State) (i : RegIx) (v : G1Point) : State := { s with q := fileWrite s.q i v }
/-- K[i] <- v -/
def State.writeK (s : State) (i : RegIx) (v : Exponent) : State := { s with k := fileWrite s.k i v }
/-- DATA becomes `m`. -/
def State.setData (s : State) (m : Memory) : State := { s with data := m }

/-! ## The end of a command (10_state.md R57, 60_exceptions.md R310, R312) -/

/-- A command completes without error: DONE = 1, BUSY = 0 (10_state.md R49, R57). -/
def State.complete (s : State) : State := { s with latch := none, done := true }

/-- The word LATCH holds, which ERRCMD takes on an error. With LATCH empty no command runs, and ERRCMD is left as it is. -/
def State.latchedWord (s : State) : Word :=
  match s.latch with
  | some l => l.word
  | none => s.errcmd

/-- Error entry, the one way a command fails with code `c`: ERR = 1, ERRCODE = c, ERRCMD = LATCH, BUSY = 0, nothing else changes
(60_exceptions.md R310). -/
def State.fail (s : State) (c : ErrorCode) : State :=
  { s with err := some c, errcmd := s.latchedWord, latch := none }

/-- The return from an error: the host's write of `v` to STATUS. Bit 2 clears ERR and ERRCODE, ERRCMD is kept, nothing is
resumed. Bits 1 and 3 clear DONE and OVR (60_exceptions.md R312, 10_state.md R49–R52). -/
def State.writeStatus (s : State) (v : Word) : State :=
  { s with done := s.done && !v.getLsbD 1
           err := if v.getLsbD 2 then none else s.err
           ovr := s.ovr && !v.getLsbD 3 }

/-- The one state change of the engine step for a command whose checks and effect are `r`: the state with its effect, or the
code of the first check that failed (10_state.md R57). -/
def State.conclude (s : State) (r : Except ErrorCode State) : StepResult :=
  match r with
  | .ok t => .next t.complete
  | .error c => .next (s.fail c)

/-- The first two checks of every command but NOP and INIT: a legal encoding, then INIT_DONE = 1
(60_exceptions.md R301, R302, R308). -/
def State.gate (s : State) (legal : Bool) : Except ErrorCode Unit := do
  require legal .illegal
  require s.initDone .notInit

/-! ## Reset (70_reset_and_hazards.md R340, R341) -/

/-- Every piece of state takes its reset value (R340). The reset input's level and the model's own fields are no state that a
reset changes (log 17). -/
def State.applyReset (s : State) : State :=
  { State.reset with rstIn := s.rstIn, host := s.host, reply := s.reply, draws := s.draws }

end Sys2Proof.Machine
end

