-- ==== Sys2Proof/Machine/Operands.lean ====
section
/-! DEFINITION. Operands that come from DATA or go to it, in the byte layouts of 20_memory.md R85, and the reading of the I
field (30_encoding.md R123). -/

namespace Sys2Proof.Machine

/-! ## Loads (41_data.md R200, R214; 42_pairing.md R230, R233) -/

/-- The 32-byte limb at DATA offset `off`: E_RANGE where it is q or more (60_exceptions.md R304). -/
def loadFp (m : Memory) (off : Nat) : Except ErrorCode Fp :=
  let n := m.readNat off 32
  if h : n < Config.q then .ok ⟨n, h⟩ else .error .range

/-- The Fp12 value at DATA offset 0: limbs L0 to L11 in order (41_data.md R200, R201). -/
def loadFp12 (m : Memory) : Except ErrorCode Fp12 := do
  let l0 ← loadFp m 0
  let l1 ← loadFp m 32
  let l2 ← loadFp m 64
  let l3 ← loadFp m 96
  let l4 ← loadFp m 128
  let l5 ← loadFp m 160
  let l6 ← loadFp m 192
  let l7 ← loadFp m 224
  let l8 ← loadFp m 256
  let l9 ← loadFp m 288
  let l10 ← loadFp m 320
  let l11 ← loadFp m 352
  .ok (Fp12.ofLimbs l0 l1 l2 l3 l4 l5 l6 l7 l8 l9 l10 l11)

/-- The finite G2 point at DATA offset 0: x.imag, x.real, y.imag, y.real (42_pairing.md R230). -/
def loadG2 (m : Memory) : Except ErrorCode G2Point := do
  let xi ← loadFp m 0
  let xr ← loadFp m 32
  let yi ← loadFp m 64
  let yr ← loadFp m 96
  .ok ⟨false, ⟨xr, xi⟩, ⟨yr, yi⟩⟩

/-- The point LDP loads: infinity without reading DATA when I[0] = 1 (42_pairing.md R230). -/
def loadG2OrInf (m : Memory) (i : Imm) : Except ErrorCode G2Point :=
  if i.getLsbD 0 then .ok ⟨true, Fp2.zero, Fp2.zero⟩ else loadG2 m

/-- The G1 point at DATA offset 0: x, y (42_pairing.md R233). -/
def loadG1 (m : Memory) : Except ErrorCode G1Point := do
  let x ← loadFp m 0
  let y ← loadFp m 32
  .ok ⟨x, y⟩

/-- The exponent LDK loads: the 256-bit magnitude at DATA offset 0, with sign I[0] and no range check (41_data.md R214). -/
def loadExponent (m : Memory) (i : Imm) : Exponent := ⟨i.getLsbD 0, BitVec.ofNat 256 (m.readNat 0 32)⟩

/-! ## Stores (41_data.md R204; 42_pairing.md R231) -/

/-- DATA after STX: limbs L0 to L11 at offsets 0 to 383 (41_data.md R204). -/
def storeFp12 (m : Memory) (x : Fp12) : Memory := m.writeLimbs 0 (x.limbs.map fun l => l.val)

/-- DATA after STP: bytes 0 to 127, all 0 for infinity (42_pairing.md R231). -/
def storeG2 (m : Memory) (p : G2Point) : Memory :=
  if p.inf then m.writeNat 0 128 0
  else m.writeLimbs 0 [p.x.x1.val, p.x.x0.val, p.y.x1.val, p.y.x0.val]

end Sys2Proof.Machine
end

