-- ==== Sys2Proof/Machine/Bus.lean ====
section
/-! DEFINITION. The host's side: the register window, its reads and writes, and the reset input (10_state.md B4, R46–R55;
20_memory.md R81–R89; 70_reset_and_hazards.md R340, R341). -/

namespace Sys2Proof.Machine

/-- What an aligned word of the window is (10_state.md B4). -/
inductive WindowReg where
  | id
  | ctrl
  | status
  | cmd
  | errcmd
  /-- The DATA word of bytes D[off] to D[off+3]. -/
  | dataWord (off : Nat)
  /-- A word not named in the table: RAZ/WI (R55). -/
  | reserved
deriving DecidableEq, Repr

/-- The register at window offset `off` (10_state.md B4, 20_memory.md R81, R84). -/
def windowReg (off : Nat) : WindowReg :=
  if off = 0x000 then .id
  else if off = 0x004 then .ctrl
  else if off = 0x008 then .status
  else if off = 0x00C then .cmd
  else if off = 0x010 then .errcmd
  else if 0x100 ≤ off ∧ off < 0x280 then .dataWord (off - 0x100)
  else .reserved

/-- The window offset of a host address, if it lies in the window (20_memory.md R81). -/
def windowOffset (addr : Nat) : Option Nat :=
  if Config.engineBase ≤ addr ∧ addr < Config.engineBase + Config.windowSize then some (addr - Config.engineBase) else none

/-- The DATA word of bytes D[off] to D[off+3], D[off] in bits [31:24] (20_memory.md R84). -/
def State.dataWord (s : State) (off : Nat) : Word := BitVec.ofNat 32 (s.data.readNat off 4)

/-- A host read of a register. It changes no state but the model's own record of the answer, and of a free value drawn: a DATA
read while BUSY = 1 (20_memory.md R88, R89). -/
def hostRead (s : State) (r : WindowReg) : State :=
  match r with
  | .id => { s with reply := .data Config.engineId }
  | .ctrl => { s with reply := .data s.ctrlWord }
  | .status => { s with reply := .data s.statusWord }
  | .cmd => { s with reply := .data 0#32 }
  | .errcmd => { s with reply := .data s.errcmd }
  | .dataWord off =>
    if s.busy then { s with reply := .data (Config.busyDataRead s.draws), draws := s.draws + 1 }
    else { s with reply := .data (s.dataWord off) }
  | .reserved => { s with reply := .data 0#32 }

/-- A write of `v` to CTRL: IRQ_EN from bit 0, then a soft reset when bit 1 is set (10_state.md R47, 70 R341). -/
def State.writeCtrl (s : State) (v : Word) : State :=
  let t := { s with irqEn := v.getLsbD 0 }
  if v.getLsbD 1 then t.applyReset else t

/-- A write of command word `c` to CMD: discarded with OVR = 1 while BUSY or ERR is 1, else accepted (10_state.md R53). The
latency of the accepted command is free (70 R362; log 2). -/
def State.writeCmd (s : State) (c : Word) : State :=
  if s.busy || s.err.isSome then { s with ovr := true }
  else { s with latch := some ⟨c, Config.latency c s.draws⟩, done := false, draws := s.draws + 1 }

/-- A write of `v` to the DATA word at byte offset `off`: discarded with OVR = 1 while BUSY = 1, else four bytes
(20_memory.md R84, R88). -/
def State.writeDataWord (s : State) (off : Nat) (v : Word) : State :=
  if s.busy then { s with ovr := true } else s.setData (s.data.writeNat off 4 v.toNat)

/-- The effect of a host write of `v` to a register (10_state.md R46–R55). -/
def State.writeReg (s : State) (r : WindowReg) (v : Word) : State :=
  match r with
  | .id => s
  | .ctrl => s.writeCtrl v
  | .status => s.writeStatus v
  | .cmd => s.writeCmd v
  | .errcmd => s
  | .dataWord off => s.writeDataWord off v
  | .reserved => s

/-- A host write of a register, with the answer it gets. -/
def hostWrite (s : State) (r : WindowReg) (v : Word) : State := { s.writeReg r v with reply := .written }

/-- An access of `size` bytes at host address `addr`, whose effect on the register it names is `go`: only an aligned 32-bit
access reaches a register, any other in the window is a bus error that changes no state (20_memory.md R83). While the reset
input is asserted the model refuses it (70 R340; log 5), outside the window it faults (log 6). -/
def hostAccess (s : State) (addr size : Nat) (go : WindowReg → State) : StepResult :=
  if s.rstIn then .refused .accessInReset
  else
    match windowOffset addr with
    | none => .fault .outsideWindow
    | some off =>
      if size = 4 ∧ off % 4 = 0 then .next (go (windowReg off)) else .next { s with reply := .busError }

/-- One action of the host or the reset input. -/
def hostAct (s : State) (act : HostAction) : StepResult :=
  match act with
  | .idle => .next s
  | .read addr size => hostAccess s addr size fun r => hostRead s r
  | .write addr size v => hostAccess s addr size fun r => hostWrite s r v
  | .assertReset => .next { s.applyReset with rstIn := true }
  | .releaseReset => .next { s with rstIn := false }

/-- The host's part of a clock period: its next action, or nothing where it has none (log 1). -/
def hostStep (s : State) : StepResult :=
  match s.host with
  | [] => .next s
  | act :: rest => hostAct { s with host := rest } act

end Sys2Proof.Machine
end

