-- ==== Sys2Proof/Machine/DataCommands.lean ====
section
/-! DEFINITION. The data movement commands LDX, STX, MOV, SET1, TAG, EQ, LDK (41_data.md). Each checks in the order of
60_exceptions.md R308 and reads every source before it writes (40_tower.md R157). -/

namespace Sys2Proof.Machine

/-- LDX Xd, #tags (41_data.md R200). -/
def execLdx (d : RegIx) (i : Imm) (s : State) : Host.Outcome State Fault Refusal := s.conclude do
  s.gate (tagsImm i)
  let v ← loadFp12 s.data
  .ok (s.writeX d (Tagged.ofImm v i))

/-- STX Xa (41_data.md R204). -/
def execStx (a : RegIx) (s : State) : Host.Outcome State Fault Refusal := s.conclude do
  s.gate true
  let x ← s.readX a
  .ok (s.setData (storeFp12 s.data x.val))

/-- MOV Xd, Xa (41_data.md R206). -/
def execMov (d a : RegIx) (s : State) : Host.Outcome State Fault Refusal := s.conclude do
  s.gate true
  let x ← s.readX a
  .ok (s.writeX d (Tagged.keep x.val x))

/-- SET1 Xd (41_data.md R208). -/
def execSet1 (d : RegIx) (s : State) : Host.Outcome State Fault Refusal := s.conclude do
  s.gate true
  .ok (s.writeX d (Tagged.unitary Fp12.one))

/-- TAG Xd, #tags (41_data.md R210). -/
def execTag (d : RegIx) (i : Imm) (s : State) : Host.Outcome State Fault Refusal := s.conclude do
  s.gate (tagsImm i)
  let x ← s.readX d
  .ok (s.writeX d (Tagged.ofImm x.val i))

/-- EQ Xa, Xb: all twelve limbs, tags ignored (41_data.md R212). -/
def execEq (a b : RegIx) (s : State) : Host.Outcome State Fault Refusal := s.conclude do
  s.gate true
  let x ← s.readX a
  let y ← s.readX b
  .ok (s.setResult (x.val = y.val))

/-- LDK Kd, #s (41_data.md R214). -/
def execLdk (d : RegIx) (i : Imm) (s : State) : Host.Outcome State Fault Refusal := s.conclude do
  s.gate (smallIndex d && bitImm i)
  .ok (s.writeK d (loadExponent s.data i))

end Sys2Proof.Machine
end

