-- ==== Sys2Proof/Machine/PairingCommands.lean ====
section
/-! DEFINITION. The pairing commands LDP, STP, LDQ, FROBP, MILLER, FEXP, PAIR, MEMBER (42_pairing.md). Each checks in the order
of 60_exceptions.md R308 and reads every source before it writes (40_tower.md R157). -/

namespace Sys2Proof.Machine

/-- LDP Pd, #inf (42_pairing.md R230). -/
def execLdp (d : RegIx) (i : Imm) (s : State) : Host.Outcome State Fault Refusal := s.conclude do
  s.gate (smallIndex d && bitImm i)
  let pt ← loadG2OrInf s.data i
  .ok (s.writeP d pt)

/-- STP Pa (42_pairing.md R231). -/
def execStp (a : RegIx) (s : State) : Host.Outcome State Fault Refusal := s.conclude do
  s.gate (smallIndex a)
  let pt ← s.readP a
  .ok ((s.setData (storeG2 s.data pt)).setResult pt.inf)

/-- LDQ Qd (42_pairing.md R233). -/
def execLdq (d : RegIx) (s : State) : Host.Outcome State Fault Refusal := s.conclude do
  s.gate (smallIndex d)
  let pt ← loadG1 s.data
  .ok (s.writeQ d pt)

/-- FROBP Pd, Pa (42_pairing.md R235). -/
def execFrobp (d a : RegIx) (s : State) : Host.Outcome State Fault Refusal := s.conclude do
  s.gate (smallIndex d && smallIndex a)
  let pt ← s.readP a
  let f ← s.readF
  .ok (s.writeP d (frobPoint f pt))

/-- MILLER Xd, Pa, Qb (42_pairing.md R240). -/
def execMiller (d a b : RegIx) (s : State) : Host.Outcome State Fault Refusal := s.conclude do
  s.gate (smallIndex a && smallIndex b)
  let pt ← s.readP a
  let g ← s.readQ b
  let f ← s.readF
  let v ← millerValue f pt g
  .ok (s.writeX d (Tagged.miller v))

/-- FEXP Xd, Xa: the input's tags are ignored (42_pairing.md R245). -/
def execFexp (d a : RegIx) (s : State) : Host.Outcome State Fault Refusal := s.conclude do
  s.gate true
  let x ← s.readX a
  require (x.val ≠ Fp12.zero) .zeroInv
  .ok (s.writeX d (Tagged.unitary (fexpValue x.val)))

/-- PAIR Xd, Pa, Qb (42_pairing.md R247). -/
def execPair (d a b : RegIx) (s : State) : Host.Outcome State Fault Refusal := s.conclude do
  s.gate (smallIndex a && smallIndex b)
  let pt ← s.readP a
  let g ← s.readQ b
  let f ← s.readF
  let v ← pairValue f pt g
  .ok (s.writeX d (Tagged.unitary v))

/-- MEMBER Xa: a failed test is RESULT = 0, not an error (42_pairing.md R250). -/
def execMember (a : RegIx) (s : State) : Host.Outcome State Fault Refusal := s.conclude do
  s.gate true
  let x ← s.readX a
  let f ← s.readF
  .ok (s.setResult (memberValue f x.val x.u))

end Sys2Proof.Machine
end

