-- ==== Sys2Proof/Machine/SystemCommands.lean ====
section
/-! DEFINITION. The system commands NOP and INIT (43_system.md R280, R282). -/

namespace Sys2Proof.Machine

/-- F's value: u^((q − 1)/6) in Fp2 (43_system.md R282). -/
def frobeniusConstant : Fp2 := Fp2.u.pow ((Config.q - 1) / 6)

/-- NOP changes nothing but the handshake (R280). -/
def execNop (s : State) : Host.Outcome State Fault Refusal := s.conclude (.ok s)

/-- INIT derives F and sets INIT_DONE, or raises E_REINIT (R282, 60_exceptions.md R302). -/
def execInit (s : State) : Host.Outcome State Fault Refusal := s.conclude do
  require (!s.initDone) .reinit
  .ok { s with f := some frobeniusConstant, initDone := true }

end Sys2Proof.Machine
end

