-- ==== Sys2Proof/Machine/TowerCommands.lean ====
section
/-! DEFINITION. The tower commands MUL, SQR, CONJ, INV, DIV, FROB, POW (40_tower.md). Each checks in the order of
60_exceptions.md R308 and reads every source before it writes (40_tower.md R157). -/

namespace Sys2Proof.Machine

/-- MUL Xd, Xa, Xb: the exact product, whatever the tags (40_tower.md R158). -/
def execMul (d a b : RegIx) (s : State) : Host.Outcome State Fault Refusal := s.conclude do
  s.gate true
  let x ← s.readX a
  let y ← s.readX b
  .ok (s.writeX d (Tagged.combine (x.val.mul y.val) x y))

/-- SQR Xd, Xa (40_tower.md R160). -/
def execSqr (d a : RegIx) (s : State) : Host.Outcome State Fault Refusal := s.conclude do
  s.gate true
  let x ← s.readX a
  .ok (s.writeX d (Tagged.keep (sqrValue x.val x.u) x))

/-- CONJ Xd, Xa (40_tower.md R162). -/
def execConj (d a : RegIx) (s : State) : Host.Outcome State Fault Refusal := s.conclude do
  s.gate true
  let x ← s.readX a
  .ok (s.writeX d (Tagged.keep x.val.conj x))

/-- INV Xd, Xa (40_tower.md R163). -/
def execInv (d a : RegIx) (s : State) : Host.Outcome State Fault Refusal := s.conclude do
  s.gate true
  let x ← s.readX a
  let r ← invValue x.val x.u
  .ok (s.writeX d (Tagged.keep r x))

/-- DIV Xd, Xa, Xb (40_tower.md R165). -/
def execDiv (d a b : RegIx) (s : State) : Host.Outcome State Fault Refusal := s.conclude do
  s.gate true
  let x ← s.readX a
  let y ← s.readX b
  let yi ← invValue y.val y.u
  .ok (s.writeX d (Tagged.combine (x.val.mul yi) x y))

/-- FROB Xd, Xa, #k (40_tower.md R166). -/
def execFrob (d a : RegIx) (i : Imm) (s : State) : Host.Outcome State Fault Refusal := s.conclude do
  s.gate true
  let x ← s.readX a
  let f ← s.readF
  .ok (s.writeX d (Tagged.keep (x.val.frob f i.toNat) x))

/-- POW Xd, Xa, Kb (40_tower.md R167, R168). -/
def execPow (d a b : RegIx) (s : State) : Host.Outcome State Fault Refusal := s.conclude do
  s.gate (smallIndex b)
  let x ← s.readX a
  let k ← s.readK b
  let r ← powValue x.val x.u k.toInt
  .ok (s.writeX d (Tagged.keep r x))

end Sys2Proof.Machine
end

