-- ==== Sys2Proof/Machine/Dispatch.lean ====
section
/-! DEFINITION. One arm per command: which meaning each constructor of Instr has. -/

namespace Sys2Proof.Machine

def exec (instr : Instr) (s : State) : Host.Outcome State Fault Refusal :=
  match instr with
  | .nop => Sys2Proof.Machine.execNop s
  | .init => Sys2Proof.Machine.execInit s
  | .ldx d i => Sys2Proof.Machine.execLdx d i s
  | .stx a => Sys2Proof.Machine.execStx a s
  | .mov d a => Sys2Proof.Machine.execMov d a s
  | .set1 d => Sys2Proof.Machine.execSet1 d s
  | .tag d i => Sys2Proof.Machine.execTag d i s
  | .eq a b => Sys2Proof.Machine.execEq a b s
  | .ldk d i => Sys2Proof.Machine.execLdk d i s
  | .mul d a b => Sys2Proof.Machine.execMul d a b s
  | .sqr d a => Sys2Proof.Machine.execSqr d a s
  | .conj d a => Sys2Proof.Machine.execConj d a s
  | .inv d a => Sys2Proof.Machine.execInv d a s
  | .div d a b => Sys2Proof.Machine.execDiv d a b s
  | .frob d a i => Sys2Proof.Machine.execFrob d a i s
  | .pow d a b => Sys2Proof.Machine.execPow d a b s
  | .ldp d i => Sys2Proof.Machine.execLdp d i s
  | .stp a => Sys2Proof.Machine.execStp a s
  | .ldq d => Sys2Proof.Machine.execLdq d s
  | .frobp d a => Sys2Proof.Machine.execFrobp d a s
  | .miller d a b => Sys2Proof.Machine.execMiller d a b s
  | .fexp d a => Sys2Proof.Machine.execFexp d a s
  | .pair d a b => Sys2Proof.Machine.execPair d a b s
  | .member a => Sys2Proof.Machine.execMember a s

end Sys2Proof.Machine
end

