-- ==== Sys2Proof/Machine/Engine.lean ====
section
/-! DEFINITION. The engine's own step: perform the command in LATCH, legal or not (10_state.md R57, 60_exceptions.md R301). -/

namespace Sys2Proof.Machine

/-- Perform command word `w`: its instruction, or the error entry with E_ILLEGAL when it is illegal. -/
def performWord (w : Word) (s : State) : StepResult :=
  match decode w with
  | some i => exec i s
  | none => s.conclude (.error .illegal)

/-- The engine step falls in this clock period: a command is latched and its latency has passed (R57, 70 R362). -/
def State.engineDue (s : State) : Bool :=
  match s.latch with
  | some l => l.wait == 0
  | none => false

/-- The engine step (R57). -/
def engineStep (s : State) : StepResult :=
  match s.latch with
  | some l => performWord l.word s
  | none => .next s

/-- One clock period of the latched command's latency passes. -/
def State.tick (s : State) : State :=
  match s.latch with
  | some l => { s with latch := some ⟨l.word, l.wait - 1⟩ }
  | none => s

/-- `s` with command word `w` accepted and its latency over: what an accepted CMD write leaves (R53), with no waiting left. The
reset input is released and ERR is 0, since no command is accepted otherwise. -/
def State.withCommand (s : State) (w : Word) : State :=
  { s with latch := some ⟨w, 0⟩, done := false, err := none, rstIn := false }

end Sys2Proof.Machine
end

