-- ==== Sys2Proof/Machine/Step.lean ====
section
/-! DEFINITION. One step of the machine: one clock period, in which either the engine performs the latched command or the host
does its next action (log 1). -/

namespace Sys2Proof.Machine

/-- A step. When the latched command's latency has passed, the engine step is the whole step, since it never falls inside a host
access (20_memory.md R87, R93). Otherwise a clock period of the latency passes, if a command is latched, and the host acts. -/
def step (s : State) : Host.Outcome State Fault Refusal :=
  if s.engineDue then engineStep s else hostStep s.tick

/-- `s` with the command word of the opcode table's bits placed where the next step performs it: in LATCH, as an accepted CMD
write whose latency has passed leaves it (10_state.md R53, R57; log 10). -/
def State.withFetchWord (s : State) (nbits w : Nat) : State := s.withCommand (BitVec.ofNat 32 (w % 2 ^ nbits))

end Sys2Proof.Machine
end

