-- ==== Sys2Proof/Safety.lean ====
section
/-! DEFINITION. What claims are stated in: the invariant of the reachable states, the legal host actions and the safe steps, and
the registers a command reads and writes. -/

namespace Sys2Proof.Machine

/-! ## The invariant -/

/-- With inf = 1 the coordinates hold 0 (10_state.md R39). -/
def G2Point.Canonical (p : G2Point) : Prop := p.inf = true → p.x = Fp2.zero ∧ p.y = Fp2.zero

/-- What every reachable state satisfies. (That every limb is below q, 10_state.md R34, is part of the type `Fp`.) -/
structure State.Inv (s : State) : Prop where
  /-- DATA is in the canonical form. -/
  memoryCanonical : s.data.wf
  /-- DATA lists no offset outside D[0]–D[383] (10_state.md R44). -/
  memoryInData : s.data.inData
  /-- Every written G2 register with inf = 1 holds coordinates 0 (10_state.md R39). -/
  pointsCanonical : ∀ pt, some pt ∈ s.p.toList → pt.Canonical
  /-- F is unwritten before INIT, and the constant INIT derives after it (10_state.md R42). -/
  frobenius : s.f = if s.initDone then some frobeniusConstant else none
  /-- Before INIT no register is written and RESULT is 0 (60_exceptions.md R302 and 10_state.md I1). -/
  beforeInit : s.initDone = false →
    s.x = Vector.replicate 16 none ∧ s.p = Vector.replicate 4 none ∧ s.q = Vector.replicate 4 none ∧
      s.k = Vector.replicate 4 none ∧ s.result = false
  /-- While a command is latched DONE and ERR are 0 (10_state.md R49, R53). -/
  busyClear : s.busy = true → s.done = false ∧ s.err = none
  /-- DONE and ERR are never both 1 (10_state.md R57). -/
  doneOrErr : s.done = true → s.err = none
  /-- While the reset input is asserted every piece of state has its reset value (70_reset_and_hazards.md R340). -/
  inReset : s.rstIn = true →
    s = { State.reset with rstIn := true, host := s.host, reply := s.reply, draws := s.draws }

/-! ## Legal host actions and safe steps (20_memory.md host interface table) -/

/-- The host address lies in the window (20_memory.md R81). -/
def inWindow (addr : Nat) : Prop := Config.engineBase ≤ addr ∧ addr < Config.engineBase + 4096

/-- The action is one that the host interface table gives a meaning in state `s`: no access outside the window, none while the
reset input is asserted. -/
def HostAction.Allowed (s : State) : HostAction → Prop
  | .idle => True
  | .read addr _ => inWindow addr ∧ s.rstIn = false
  | .write addr _ _ => inWindow addr ∧ s.rstIn = false
  | .assertReset => True
  | .releaseReset => True

/-- The step goes on: it neither faults nor is refused. -/
def State.SafeStep (s : State) : Prop := ∃ t, step s = .next t

/-! ## What a command reads and writes (10_state.md "Who reads and writes what") -/

/-- A register of one of the four files. -/
inductive RegRef where
  | x (i : RegIx)
  | p (i : RegIx)
  | q (i : RegIx)
  | k (i : RegIx)
deriving DecidableEq, Repr

/-- The register's written bit W (10_state.md R35). -/
def State.written (s : State) : RegRef → Bool
  | .x i => (s.x[i.toNat]?.getD none).isSome
  | .p i => (s.p[i.toNat]?.getD none).isSome
  | .q i => (s.q[i.toNat]?.getD none).isSome
  | .k i => (s.k[i.toNat]?.getD none).isSome

end Sys2Proof.Machine

namespace Sys2Proof

open Machine

/-- The registers a command reads, in the order they are checked: A, then B, and D for TAG (60_exceptions.md R303). -/
def Instr.reads : Instr → List RegRef
  | .nop => []
  | .init => []
  | .ldx _ _ => []
  | .stx a => [.x a]
  | .mov _ a => [.x a]
  | .set1 _ => []
  | .tag d _ => [.x d]
  | .eq a b => [.x a, .x b]
  | .ldk _ _ => []
  | .mul _ a b => [.x a, .x b]
  | .sqr _ a => [.x a]
  | .conj _ a => [.x a]
  | .inv _ a => [.x a]
  | .div _ a b => [.x a, .x b]
  | .frob _ a _ => [.x a]
  | .pow _ a b => [.x a, .k b]
  | .ldp _ _ => []
  | .stp a => [.p a]
  | .ldq _ => []
  | .frobp _ a => [.p a]
  | .miller _ a b => [.p a, .q b]
  | .fexp _ a => [.x a]
  | .pair _ a b => [.p a, .q b]
  | .member a => [.x a]

/-- The register a command writes when it completes. -/
def Instr.writes : Instr → Option RegRef
  | .nop => none
  | .init => none
  | .ldx d _ => some (.x d)
  | .stx _ => none
  | .mov d _ => some (.x d)
  | .set1 d => some (.x d)
  | .tag d _ => some (.x d)
  | .eq _ _ => none
  | .ldk d _ => some (.k d)
  | .mul d _ _ => some (.x d)
  | .sqr d _ => some (.x d)
  | .conj d _ => some (.x d)
  | .inv d _ => some (.x d)
  | .div d _ _ => some (.x d)
  | .frob d _ _ => some (.x d)
  | .pow d _ _ => some (.x d)
  | .ldp d _ => some (.p d)
  | .stp _ => none
  | .ldq d => some (.q d)
  | .frobp d _ => some (.p d)
  | .miller d _ _ => some (.x d)
  | .fexp d _ => some (.x d)
  | .pair d _ _ => some (.x d)
  | .member _ => none

/-- The DATA bytes a command stores to, from offset 0: all 384 for STX, 128 for STP, none otherwise (41_data.md R216). -/
def Instr.storedBytes : Instr → Nat
  | .stx _ => 384
  | .stp _ => 128
  | .nop | .init | .ldx _ _ | .mov _ _ | .set1 _ | .tag _ _ | .eq _ _ | .ldk _ _ | .mul _ _ _ | .sqr _ _ | .conj _ _
  | .inv _ _ | .div _ _ _ | .frob _ _ _ | .pow _ _ _ | .ldp _ _ | .ldq _ | .frobp _ _ | .miller _ _ _ | .fexp _ _
  | .pair _ _ _ | .member _ => 0

/-- The command writes STATUS.RESULT when it completes (10_state.md R45). -/
def Instr.writesResult : Instr → Bool
  | .eq _ _ => true
  | .stp _ => true
  | .member _ => true
  | .nop | .init | .ldx _ _ | .stx _ | .mov _ _ | .set1 _ | .tag _ _ | .ldk _ _ | .mul _ _ _ | .sqr _ _ | .conj _ _
  | .inv _ _ | .div _ _ _ | .frob _ _ _ | .pow _ _ _ | .ldp _ _ | .ldq _ | .frobp _ _ | .miller _ _ _ | .fexp _ _
  | .pair _ _ _ => false

end Sys2Proof
end

