-- ==== Sys2Proof/Certificates/Slice0/Obligations.lean ====
section
/-! DEFINITION. The statements for the provers. A word on the forms: `s.readX a = .ok x` says that Xa is written and holds x,
and a next state written `{ s with … }` says with one equation what a command changes and that it changes nothing else. -/

open Sys2Proof Sys2Proof.Machine

namespace Sys2Proof.Machine

/-- The command answers the error entry with code `c`: ERR, ERRCODE, ERRCMD and BUSY change, nothing else
(60_exceptions.md R310). -/
def FailsWith (i : Instr) (s : State) (c : ErrorCode) : Prop :=
  exec i s = .next { s with err := some c, errcmd := s.latchedWord, latch := none }

/-- `x` to the power `n`, as an n-fold product (40_tower.md R153). -/
def Fp12.nthPower (x : Fp12) (n : Nat) : Fp12 := (fun r => x.mul r)^[n] Fp12.one

/-- `T` lies on the twist y² = x³ + 5·u (42_pairing.md R236). -/
def Affine2.OnTwist (p : Affine2) : Prop := p.y.mul p.y = ((p.x.mul p.x).mul p.x).add ⟨Fp.zero, Fp.ofNat 5⟩

/-- MILLER-value written out from 42_pairing.md R239 and R240 over single Steps: f = 1 and T = P; for the bits 64 to 0 of
6t + 2 = 0x2400000000215D93E a square, the doubling Step and on a set bit the Step with P; the Steps with K1 = FROBP(P) and
K2 = −FROBP(K1); E_PAIR for P at infinity, from a Step, and for f = 0 at the end. -/
def millerByRule (f : Fp2) (p : G2Point) (g : G1Point) : Except ErrorCode Fp12 :=
  if p.inf then .error .pair
  else do
    let frobp (r : Affine2) : Affine2 :=
      ⟨r.x.conj.mul (f.inv.mul f.inv), r.y.conj.mul ((f.inv.mul f.inv).mul f.inv)⟩
    let pt : Affine2 := ⟨p.x, p.y⟩
    let looped ← (List.range 65).reverse.foldlM (init := (⟨Fp12.one, pt⟩ : MillerAcc)) fun acc i => do
      let doubled ← millerStep ⟨acc.f.mul acc.f, acc.pt⟩ acc.pt g
      if Nat.testBit 0x2400000000215D93E i then millerStep doubled pt g else .ok doubled
    let first ← millerStep looped (frobp pt) g
    let last ← millerStep first ⟨(frobp (frobp pt)).x, (frobp (frobp pt)).y.neg⟩ g
    if last.f = Fp12.zero then .error .pair else .ok last.f

end Sys2Proof.Machine

/-! ## Encoding -/

/-- Words written out from 30_encoding.md R127 and 95_test_vectors.md decode to the commands they stand for, one or more of every
family. -/
def Obligations.DecodesWrittenOutWords : Prop :=
  decode 0x00000000#32 = some .nop ∧ decode 0x00000001#32 = some .init ∧
  decode 0x00000110#32 = some (.ldx 1 0) ∧ decode 0x00100114#32 = some (.tag 1 1) ∧
  decode 0x00047015#32 = some (.eq 7 4) ∧ decode 0x00100116#32 = some (.ldk 1 1) ∧
  decode 0x00021320#32 = some (.mul 3 1 2) ∧ decode 0x00200025#32 = some (.frob 0 0 2) ∧
  decode 0x00010526#32 = some (.pow 5 0 1) ∧ decode 0x00000330#32 = some (.ldp 3 0) ∧
  decode 0x00011236#32 = some (.pair 2 1 1) ∧ decode 0x00004037#32 = some (.member 4) ∧
  decode 0x00200016#32 = none ∧ decode 0x00000430#32 = none ∧ decode 0x01000000#32 = none

/-- Decoding the encoding of any legal command gives the command back (30_encoding.md R126, R127). -/
def Obligations.DecodeOfEncode : Prop := ∀ i : Instr, i.WellFormed → decode (encode i) = some i

/-- A word that decodes is the encoding of what it decodes to, which is a legal command: each command has one word. -/
def Obligations.EncodeOfDecode : Prop := ∀ (w : Word) (i : Instr), decode w = some i → i.WellFormed ∧ encode i = w

/-- A word is legal exactly when it matches exactly one row of the opcode map; an illegal word matches none
(30_encoding.md R126). -/
def Obligations.LegalWordMatchesExactlyOneRow : Prop :=
  ∀ w : Word, ((decode w).isSome = true → w.rowCount = 1) ∧ ((decode w).isSome = false → w.rowCount = 0)

/-- The engine step on a word that matches no row of the opcode map is the error entry with E_ILLEGAL (60_exceptions.md R301):
no part of any command is performed. -/
def Obligations.IllegalWordRaisesIllegal : Prop :=
  ∀ (s : State) (w : Word), s.latch = some ⟨w, 0⟩ → w.rowCount = 0 →
    step s = .next { s with err := some .illegal, errcmd := w, latch := none }

/-! ## Steps -/

/-- When the latched word decodes to a command and its latency has passed, the step is exec of that command (10_state.md R57). The
latency is the model's own count (log 2). -/
def Obligations.StepPerformsLatchedCommand : Prop :=
  ∀ (s : State) (w : Word) (i : Instr), s.latch = some ⟨w, 0⟩ → decode w = some i → step s = exec i s

/-- The word that withFetchWord places is the one the next step performs, for every legal command (log 10). -/
def Obligations.FetchWordRunsNext : Prop :=
  ∀ (s : State) (i : Instr), i.WellFormed →
    step (s.withFetchWord 32 (encode i).toNat) = exec i (s.withFetchWord 32 (encode i).toNat) ∧
      decodeTableWord 32 (encode i).toNat = some i

/-- An accepted command finishes: with its latency `n` left and the host idle, after n + 1 steps BUSY = 0 and DONE or ERR is set
(10_state.md R57, 70_reset_and_hazards.md R362). -/
def Obligations.AcceptedCommandFinishes : Prop :=
  ∀ (s : State) (w : Word) (n : Nat), s.latch = some ⟨w, n⟩ → s.host = [] →
    ∃ t, Host.Core.run Sys2Proof.core (n + 1) s = .next t ∧ t.busy = false ∧ (t.done = true ∨ t.err.isSome = true)

/-! ## System commands -/

/-- NOP changes no register, DATA byte or RESULT and sets DONE; its only legal encoding is 0, and every other word with its OP is
E_ILLEGAL; before INIT it is, INIT itself apart, the only command accepted; after reset it leads to STATUS = 2 (43_system.md
R280). -/
def Obligations.NopChangesOnlyHandshake : Prop :=
  (∀ s : State, exec .nop s = .next { s with latch := none, done := true }) ∧
  (∀ w : Word, decode w = some .nop ↔ w = 0x00000000#32) ∧
  (∀ (w : Word) (s : State), w.opField = 0x00#8 → w ≠ 0x00000000#32 → s.latch = some ⟨w, 0⟩ →
    step s = .next { s with err := some .illegal, errcmd := w, latch := none }) ∧
  (∀ (i : Instr) (s : State), i ≠ .nop → i ≠ .init → s.initDone = false → ∃ c, FailsWith i s c) ∧
  (∃ t, step (State.reset.withCommand 0x00000000#32) = .next t ∧ t.statusWord = 0x00000002#32)

/-- INIT writes F = u^((q−1)/6), whose value is the spec's, and sets INIT_DONE; a second INIT raises E_REINIT; INIT has one
encoding; after reset a first INIT leads to STATUS = 0x12 and a second one to 0x314 (43_system.md R282; the formula of F is the spec's general
knowledge and its value the spec's own derivation, log 14). -/
def Obligations.InitDerivesFrobeniusConstant : Prop :=
  (∀ s : State, s.initDone = false →
    exec .init s = .next { s with f := some (Fp2.u.pow ((Config.q - 1) / 6)), initDone := true, latch := none, done := true }) ∧
  Fp2.u.pow ((Config.q - 1) / 6) =
    ⟨Fp.ofNat 0x3F23EA58E5720BDB843C6CFA9C08674947C5C86E0DDD04EDA91D8354377B698B, Fp.zero⟩ ∧
  (∀ s : State, s.initDone = true → FailsWith .init s .reinit) ∧
  (∀ w : Word, decode w = some .init ↔ w = 0x00000001#32) ∧
  (∃ t t', step (State.reset.withCommand 0x00000001#32) = .next t ∧ t.statusWord = 0x00000012#32 ∧
    step (t.withCommand 0x00000001#32) = .next t' ∧ t'.statusWord = 0x00000314#32)

/-! ## Data movement -/

/-- LDX loads the twelve limbs of DATA in the order L0 to L11, with tags I[0] and I[1], when every limb is below q
(41_data.md R200). -/
def Obligations.LdxLoadsTwelveLimbs : Prop :=
  ∀ (d : RegIx) (i : Imm) (s : State) (v : Fp12), s.initDone = true → i.toNat < 4 →
    v.limbs.map (fun l => l.val) = (List.range 12).map (fun j => s.data.readNat (32 * j) 32) →
    exec (.ldx d i) s =
      .next { s with x := fileWrite s.x d ⟨v, i.getLsbD 0, i.getLsbD 1⟩, latch := none, done := true }

/-- STX stores the twelve limbs to DATA bytes 0 to 383, whatever the tags, and changes nothing else (41_data.md R204). -/
def Obligations.StxStoresTwelveLimbs : Prop :=
  ∀ (a : RegIx) (s : State) (x : Tagged), s.initDone = true → s.data.wf → s.readX a = .ok x →
    ∃ m : Memory, exec (.stx a) s = .next { s with data := m, latch := none, done := true } ∧
      (List.range 12).map (fun j => m.readNat (32 * j) 32) = x.val.limbs.map (fun l => l.val) ∧
      ∀ o, 384 ≤ o → m.read o = s.data.read o

/-- STX followed by LDX of the same tags restores the register exactly (41_data.md R204), through any destination. -/
def Obligations.StxThenLdxRestoresRegister : Prop :=
  ∀ (a d : RegIx) (i : Imm) (s : State) (x : Tagged), s.initDone = true → s.data.wf → s.readX a = .ok x → i.toNat < 4 →
    i.getLsbD 0 = x.u → i.getLsbD 1 = x.m →
    ∃ t t', exec (.stx a) s = .next t ∧ exec (.ldx d i) t = .next t' ∧ t'.readX d = .ok x

/-- MOV copies value and tags; SET1 writes the one with U = 1, M = 0; TAG rewrites the tags of a register and keeps its value
(41_data.md R206, R208, R210). -/
def Obligations.MovSet1TagWriteRegister : Prop :=
  (∀ (d a : RegIx) (s : State) (x : Tagged), s.initDone = true → s.readX a = .ok x →
    exec (.mov d a) s = .next { s with x := fileWrite s.x d x, latch := none, done := true }) ∧
  (∀ (d : RegIx) (s : State), s.initDone = true →
    exec (.set1 d) s = .next { s with x := fileWrite s.x d ⟨Fp12.one, true, false⟩, latch := none, done := true }) ∧
  (∀ (d : RegIx) (i : Imm) (s : State) (x : Tagged), s.initDone = true → i.toNat < 4 → s.readX d = .ok x →
    exec (.tag d i) s =
      .next { s with x := fileWrite s.x d ⟨x.val, i.getLsbD 0, i.getLsbD 1⟩, latch := none, done := true })

/-- EQ sets RESULT to 1 exactly when the twelve limbs are equal, ignoring the tags, and writes no register (41_data.md R212). -/
def Obligations.EqComparesLimbsOnly : Prop :=
  ∀ (a b : RegIx) (s : State) (x y : Tagged), s.initDone = true → s.readX a = .ok x → s.readX b = .ok y →
    ∃ r : Bool, exec (.eq a b) s = .next { s with result := r, latch := none, done := true } ∧
      (r = true ↔ x.val.limbs = y.val.limbs)

/-- LDK loads the 256-bit magnitude of DATA bytes 0–31 with sign I[0], without any range check (41_data.md R214). -/
def Obligations.LdkLoadsExponent : Prop :=
  ∀ (d : RegIx) (i : Imm) (s : State), s.initDone = true → d.toNat < 4 → i.toNat < 2 →
    ∃ k : Exponent, exec (.ldk d i) s = .next { s with k := fileWrite s.k d k, latch := none, done := true } ∧
      k.s = i.getLsbD 0 ∧ k.mag.toNat = s.data.readNat 0 32 ∧
      k.toInt = (if i.getLsbD 0 then -(s.data.readNat 0 32 : Int) else (s.data.readNat 0 32 : Int))

/-! ## Tower commands -/

/-- MUL writes the product of 40_tower.md R153 with U the and and M the or of the sources' tags (40_tower.md R158). -/
def Obligations.MulWritesProduct : Prop :=
  ∀ (d a b : RegIx) (s : State) (x y : Tagged), s.initDone = true → s.readX a = .ok x → s.readX b = .ok y →
    exec (.mul d a b) s =
      .next { s with
        x := fileWrite s.x d
          ⟨⟨((x.val.a.mul y.val.c).add (x.val.b.mul y.val.b)).add (x.val.c.mul y.val.a),
            ((x.val.b.mul y.val.c).add (x.val.c.mul y.val.b)).add (x.val.a.mul y.val.a).mulV,
            (x.val.c.mul y.val.c).add ((x.val.b.mul y.val.a).add (x.val.a.mul y.val.b)).mulV⟩,
            x.u && y.u, x.m || y.m⟩
        latch := none
        done := true }

/-- MUL's product is associative, commutative and has the one as its neutral element (40_tower.md R170, the spec's own
derivation). -/
def Obligations.ProductIsAssociativeCommutative : Prop :=
  (∀ x y z : Fp12, (x.mul y).mul z = x.mul (y.mul z)) ∧ (∀ x y : Fp12, x.mul y = y.mul x) ∧
    (∀ x : Fp12, Fp12.one.mul x = x)

/-- SQR writes the exact square when U = 0, and GS(x) by the formula of R161 when U = 1, and keeps the tags
(40_tower.md R160, R161; the formula is the spec's general knowledge, log 14). -/
def Obligations.SqrFollowsUnitaryTag : Prop :=
  ∀ (d a : RegIx) (s : State) (x : Tagged), s.initDone = true → s.readX a = .ok x →
    (x.u = false → exec (.sqr d a) s =
      .next { s with x := fileWrite s.x d ⟨x.val.mul x.val, x.u, x.m⟩, latch := none, done := true }) ∧
    (x.u = true → exec (.sqr d a) s =
      .next { s with
        x := fileWrite s.x d
          ⟨⟨((x.val.b.mul x.val.b).scaleNat 3).sub (x.val.a.conj.scaleNat 2),
            ((x.val.a.mul x.val.a).mulV.scaleNat 3).add (x.val.b.conj.scaleNat 2),
            ((x.val.c.mul x.val.c).scaleNat 3).sub (x.val.c.conj.scaleNat 2)⟩, x.u, x.m⟩
        latch := none
        done := true })

/-- CONJ negates the limbs L0, L1, L6, L7, L8 and L9 modulo q, keeps the others and the tags (40_tower.md R162). -/
def Obligations.ConjNegatesSixLimbs : Prop :=
  ∀ (d a : RegIx) (s : State) (v : Fp12) (u m : Bool) (l0 l1 l2 l3 l4 l5 l6 l7 l8 l9 l10 l11 : Fp),
    s.initDone = true → s.readX a = .ok ⟨v, u, m⟩ → v.limbs = [l0, l1, l2, l3, l4, l5, l6, l7, l8, l9, l10, l11] →
    ∃ r : Fp12, exec (.conj d a) s = .next { s with x := fileWrite s.x d ⟨r, u, m⟩, latch := none, done := true } ∧
      r.limbs = [l0.neg, l1.neg, l2, l3, l4, l5, l6.neg, l7.neg, l8.neg, l9.neg, l10, l11]

/-- INV of a nonzero value with U = 0 writes its inverse, the one value whose product with it is 1 (40_tower.md R163, R164). -/
def Obligations.InvWritesUniqueInverse : Prop :=
  ∀ (d a : RegIx) (s : State) (x : Tagged), s.initDone = true → s.readX a = .ok x → x.u = false → x.val ≠ Fp12.zero →
    ∃ y : Fp12, exec (.inv d a) s =
        .next { s with x := fileWrite s.x d ⟨y, x.u, x.m⟩, latch := none, done := true } ∧
      x.val.mul y = Fp12.one ∧ ∀ z : Fp12, x.val.mul z = Fp12.one → z = y

/-- INV of any value with U = 1, zero too, writes its conjugate, the value CONJ writes (40_tower.md R163). -/
def Obligations.InvOfUnitaryIsConjugate : Prop :=
  ∀ (d a : RegIx) (s : State) (x : Tagged), s.initDone = true → s.readX a = .ok x → x.u = true →
    exec (.inv d a) s =
      .next { s with x := fileWrite s.x d ⟨⟨x.val.a.conj, x.val.b.conj.neg, x.val.c.conj⟩, x.u, x.m⟩,
                     latch := none, done := true } ∧
    exec (.inv d a) s = exec (.conj d a) s

/-- DIV writes x·conj(y) when the divisor has U = 1; when it has U = 0 and is not zero, the quotient: the value whose product with
the divisor is the dividend (40_tower.md R165). -/
def Obligations.DivWritesQuotient : Prop :=
  ∀ (d a b : RegIx) (s : State) (x y : Tagged), s.initDone = true → s.readX a = .ok x → s.readX b = .ok y →
    (y.u = true → exec (.div d a b) s =
      .next { s with
        x := fileWrite s.x d ⟨x.val.mul ⟨y.val.a.conj, y.val.b.conj.neg, y.val.c.conj⟩, x.u && y.u, x.m || y.m⟩
        latch := none
        done := true }) ∧
    (y.u = false → y.val ≠ Fp12.zero → ∃ r : Fp12, exec (.div d a b) s =
        .next { s with x := fileWrite s.x d ⟨r, x.u && y.u, x.m || y.m⟩, latch := none, done := true } ∧
      r.mul y.val = x.val)

/-- FROB applies φ as many times as its count says, with the constant in F, and keeps the tags (40_tower.md R166). -/
def Obligations.FrobAppliesPhi : Prop :=
  ∀ (d a : RegIx) (k : Imm) (s : State) (x : Tagged) (f : Fp2), s.initDone = true → s.readX a = .ok x → s.f = some f →
    exec (.frob d a k) s =
      .next { s with
        x := fileWrite s.x d
          ⟨(fun v : Fp12 =>
              ⟨⟨v.a.y0.conj.mul (f.mul f), (v.a.y1.conj.mul ((f.mul f).mul f)).mul (f.mul f)⟩,
               ⟨v.b.y0.conj.mul f, (v.b.y1.conj.mul ((f.mul f).mul f)).mul f⟩,
               ⟨v.c.y0.conj, v.c.y1.conj.mul ((f.mul f).mul f)⟩⟩)^[k.toNat] x.val, x.u, x.m⟩
        latch := none
        done := true }

/-- With the constant INIT derives, FROB by 6 is CONJ and FROB by 12 is the identity (40_tower.md R166: "FROB by 6
equals CONJ [derived]"; log 14). -/
def Obligations.FrobSixIsConjTwelveIsIdentity : Prop :=
  ∀ x : Fp12, Fp12.frob frobeniusConstant 6 x = x.conj ∧ Fp12.frob frobeniusConstant 12 x = x

/-- With the constant INIT derives, φ(x) = x^q for every x, and so FROB with count k gives x^(q^k) (40_tower.md R166,
where the spec marks it as derived; log 14). -/
def Obligations.FrobIsPowerOfQ : Prop :=
  ∀ (x : Fp12) (k : Nat), Fp12.frob frobeniusConstant k x = x.nthPower (Config.q ^ k)

/-- POW writes, for U = 0, the exact power: the one for exponent 0, the MAG-fold product of x for a positive exponent, and of x⁻¹
for a negative one when x is not zero; the tags are x's (40_tower.md R167, R168). -/
def Obligations.PowIsExactPower : Prop :=
  ∀ (d a b : RegIx) (s : State) (x : Tagged) (k : Exponent), s.initDone = true → b.toNat < 4 → s.readX a = .ok x →
    s.readK b = .ok k → x.u = false → (k.s = true → k.mag.toNat ≠ 0 → x.val ≠ Fp12.zero) →
    exec (.pow d a b) s =
      .next { s with
        x := fileWrite s.x d ⟨(if k.s then x.val.inv else x.val).nthPower k.mag.toNat, x.u, x.m⟩
        latch := none
        done := true }

/-- POW writes, for U = 1, the one for exponent 0, and otherwise what MSB-first square-and-multiply with GS squarings gives from x,
or from conj(x) for a negative exponent; it never fails (40_tower.md R167, R168). -/
def Obligations.PowOfUnitaryUsesGs : Prop :=
  ∀ (d a b : RegIx) (s : State) (x : Tagged) (k : Exponent), s.initDone = true → b.toNat < 4 → s.readX a = .ok x →
    s.readK b = .ok k → x.u = true →
    exec (.pow d a b) s =
      .next { s with
        x := fileWrite s.x d
          ⟨if k.mag.toNat = 0 then Fp12.one
           else
             let base := if k.s then x.val.conj else x.val
             ((List.range k.mag.toNat.log2).reverse).foldl
               (fun r i => if k.mag.toNat.testBit i then r.gs.mul base else r.gs) base, x.u, x.m⟩
        latch := none
        done := true }

/-- E_ZERO_INV: INV, DIV and POW with a negative exponent of a zero value with U = 0, and FEXP of zero, fail so; with U = 1 INV,
DIV by the value and POW of it complete, whatever the value, and INV writes its conjugate (60_exceptions.md R305). -/
def Obligations.InverseOfZeroFails : Prop :=
  ∀ (d a b : RegIx) (s : State) (x : Tagged), s.initDone = true → s.readX a = .ok x →
    (x.val = Fp12.zero → x.u = false → FailsWith (.inv d a) s .zeroInv) ∧
    (∀ y, x.val = Fp12.zero → x.u = false → s.readX b = .ok y → FailsWith (.div d b a) s .zeroInv) ∧
    (∀ k, x.val = Fp12.zero → x.u = false → b.toNat < 4 → s.readK b = .ok k → k.toInt < 0 →
      FailsWith (.pow d a b) s .zeroInv) ∧
    (x.val = Fp12.zero → FailsWith (.fexp d a) s .zeroInv) ∧
    (x.u = true → exec (.inv d a) s =
      .next { s with x := fileWrite s.x d ⟨x.val.conj, x.u, x.m⟩, latch := none, done := true }) ∧
    (∀ y, x.u = true → s.readX b = .ok y → ∃ v : Tagged, exec (.div d b a) s =
      .next { s with x := fileWrite s.x d v, latch := none, done := true }) ∧
    (∀ k, x.u = true → b.toNat < 4 → s.readK b = .ok k → ∃ v : Tagged, exec (.pow d a b) s =
      .next { s with x := fileWrite s.x d v, latch := none, done := true })

/-! ## Pairing commands -/

/-- LDP writes the point at infinity without reading DATA when I[0] = 1, and else the point with the imaginary components first
(42_pairing.md R230). -/
def Obligations.LdpLoadsPoint : Prop :=
  ∀ (d : RegIx) (i : Imm) (s : State), s.initDone = true → d.toNat < 4 → i.toNat < 2 →
    (i.getLsbD 0 = true → exec (.ldp d i) s =
      .next { s with p := fileWrite s.p d ⟨true, Fp2.zero, Fp2.zero⟩, latch := none, done := true }) ∧
    (i.getLsbD 0 = false → ∀ xi xr yi yr : Fp, s.data.readNat 0 32 = xi.val → s.data.readNat 32 32 = xr.val →
      s.data.readNat 64 32 = yi.val → s.data.readNat 96 32 = yr.val →
      exec (.ldp d i) s =
        .next { s with p := fileWrite s.p d ⟨false, ⟨xr, xi⟩, ⟨yr, yi⟩⟩, latch := none, done := true })

/-- STP stores the point to DATA bytes 0 to 127, imaginary components first, all zero for infinity, leaves every other byte, and
writes the infinity marker to RESULT (42_pairing.md R231). -/
def Obligations.StpStoresPointAndMarker : Prop :=
  ∀ (a : RegIx) (s : State) (pt : G2Point), s.initDone = true → s.data.wf → a.toNat < 4 → s.readP a = .ok pt →
    ∃ m : Memory, exec (.stp a) s = .next { s with data := m, result := pt.inf, latch := none, done := true } ∧
      (∀ o, 128 ≤ o → m.read o = s.data.read o) ∧
      (pt.inf = true → ∀ o, o < 128 → m.read o = 0#8) ∧
      (pt.inf = false → m.readNat 0 32 = pt.x.x1.val ∧ m.readNat 32 32 = pt.x.x0.val ∧
        m.readNat 64 32 = pt.y.x1.val ∧ m.readNat 96 32 = pt.y.x0.val)

/-- LDQ loads a G1 point, x then y (42_pairing.md R233). -/
def Obligations.LdqLoadsPoint : Prop :=
  ∀ (d : RegIx) (s : State) (x y : Fp), s.initDone = true → d.toNat < 4 → s.data.readNat 0 32 = x.val →
    s.data.readNat 32 32 = y.val →
    exec (.ldq d) s = .next { s with q := fileWrite s.q d ⟨x, y⟩, latch := none, done := true }

/-- E_RANGE: LDX with any of 12 limbs of q or more, LDP with I[0] = 0 and any of 4, LDQ with either of 2, fail so; LDK of the same
DATA completes, without any range check (60_exceptions.md R304). -/
def Obligations.UnreducedLimbFailsLoad : Prop :=
  ∀ (d : RegIx) (i : Imm) (s : State) (j : Nat), s.initDone = true → Config.q ≤ s.data.readNat (32 * j) 32 →
    (j < 12 → i.toNat < 4 → FailsWith (.ldx d i) s .range) ∧
    (j < 4 → d.toNat < 4 → i = 0#4 → FailsWith (.ldp d i) s .range) ∧
    (j < 2 → d.toNat < 4 → FailsWith (.ldq d) s .range) ∧
    (d.toNat < 4 → i.toNat < 2 → ∃ k : Exponent, exec (.ldk d i) s =
      .next { s with k := fileWrite s.k d k, latch := none, done := true })

/-- FROBP maps infinity to infinity, and a finite point to (conj2(x)·F⁻², conj2(y)·F⁻³) (42_pairing.md R235). -/
def Obligations.FrobpMapsPoint : Prop :=
  ∀ (d a : RegIx) (s : State) (pt : G2Point) (f : Fp2), s.initDone = true → d.toNat < 4 → a.toNat < 4 →
    s.readP a = .ok pt → s.f = some f →
    (pt.inf = true → exec (.frobp d a) s =
      .next { s with p := fileWrite s.p d ⟨true, Fp2.zero, Fp2.zero⟩, latch := none, done := true }) ∧
    (pt.inf = false → exec (.frobp d a) s =
      .next { s with
        p := fileWrite s.p d
          ⟨false, pt.x.conj.mul (f.inv.mul f.inv), pt.y.conj.mul ((f.inv.mul f.inv).mul f.inv)⟩
        latch := none
        done := true })

/-- With the constant INIT derives, FROBP of a point on the twist is on the twist (42_pairing.md R235: "For any P on E′
the result is again on E′ [derived]"; the twist is the spec's general knowledge, log 14). -/
def Obligations.FrobpKeepsTwist : Prop :=
  ∀ p : Affine2, p.OnTwist → (frobAffine frobeniusConstant p).OnTwist

/-- MILLER writes the value of the loop of R239 and R240, with U = 0 and M = 1, where the loop has one, and fails with E_PAIR where it
has none: for P at infinity, at a Step whose slope would invert zero, and for a final f of 0 (42_pairing.md R239, R240; the loop
scalar is the spec's general knowledge, log 14). -/
def Obligations.MillerWritesMillerValue : Prop :=
  ∀ (d a b : RegIx) (s : State) (pt : G2Point) (g : G1Point) (f : Fp2), s.initDone = true → a.toNat < 4 →
    b.toNat < 4 → s.readP a = .ok pt → s.readQ b = .ok g → s.f = some f →
    (∀ v, millerByRule f pt g = .ok v →
      exec (.miller d a b) s = .next { s with x := fileWrite s.x d ⟨v, false, true⟩, latch := none, done := true }) ∧
    (∀ c, millerByRule f pt g = .error c → c = .pair ∧ FailsWith (.miller d a b) s .pair)

/-- A Step folds the line of R237 into f and advances T by the tangent of two equal points or the chord of points with different x,
and raises E_PAIR where the slope would invert zero (42_pairing.md R237, R238; the line is the spec's general knowledge,
log 14). -/
def Obligations.StepFoldsLineOrFails : Prop :=
  ∀ (acc : MillerAcc) (ss : Affine2) (g : G1Point),
    (acc.pt.x = ss.x → acc.pt.y ≠ ss.y ∨ acc.pt.y = Fp2.zero → millerStep acc ss g = .error .pair) ∧
    (∀ l : Fp2,
      (acc.pt.x = ss.x ∧ acc.pt.y = ss.y ∧ acc.pt.y ≠ Fp2.zero ∧
        l = ((acc.pt.x.mul acc.pt.x).scale (Fp.ofNat 3)).mul (acc.pt.y.scale (Fp.ofNat 2)).inv) ∨
      (acc.pt.x ≠ ss.x ∧ l = (ss.y.sub acc.pt.y).mul (ss.x.sub acc.pt.x).inv) →
      ∃ x3 y3 : Fp2, x3 = ((l.mul l).sub acc.pt.x).sub ss.x ∧ y3 = (l.mul (acc.pt.x.sub x3)).sub acc.pt.y ∧
        millerStep acc ss g = .ok
          ⟨acc.f.mul (Fp12.ofLimbs Fp.zero Fp.zero (l.scale g.x).neg.x1 (l.scale g.x).neg.x0 Fp.zero Fp.zero Fp.zero Fp.zero
            Fp.zero g.y ((l.mul acc.pt.x).sub acc.pt.y).x1 ((l.mul acc.pt.x).sub acc.pt.y).x0), ⟨x3, y3⟩⟩)

/-- E_PAIR: MILLER and PAIR fail so when the G2 input is infinity, when its y is 0 (the first doubling inverts zero), and whenever
the loop of R240 has no value, a zero final f among the cases (60_exceptions.md R306, 42_pairing.md R240). -/
def Obligations.DegeneratePairingFails : Prop :=
  ∀ (d a b : RegIx) (s : State) (pt : G2Point) (g : G1Point) (f : Fp2), s.initDone = true → a.toNat < 4 → b.toNat < 4 →
    s.readP a = .ok pt → s.readQ b = .ok g → s.f = some f →
    (pt.inf = true ∨ pt.y = Fp2.zero ∨ (∃ c, millerByRule f pt g = .error c) →
      FailsWith (.miller d a b) s .pair ∧ FailsWith (.pair d a b) s .pair)

/-- FEXP writes the exact power (q¹² − 1)/N of a nonzero value, whatever its tags, with U = 1 and M = 0 (42_pairing.md R245). -/
def Obligations.FexpIsExactPower : Prop :=
  ∀ (d a : RegIx) (s : State) (x : Tagged), s.initDone = true → s.readX a = .ok x → x.val ≠ Fp12.zero →
    exec (.fexp d a) s =
      .next { s with x := fileWrite s.x d ⟨x.val.nthPower ((Config.q ^ 12 - 1) / Config.N), true, false⟩,
                     latch := none, done := true }

/-- PAIR writes the power (q¹² − 1)/N of the value of R240's loop, with U = 1 and M = 0: what FEXP writes from what MILLER writes
(42_pairing.md R247, R245, R240). -/
def Obligations.PairIsFexpOfMiller : Prop :=
  ∀ (d a b : RegIx) (s : State) (pt : G2Point) (g : G1Point) (f : Fp2) (v : Fp12), s.initDone = true → a.toNat < 4 →
    b.toNat < 4 → s.readP a = .ok pt → s.readQ b = .ok g → s.f = some f → millerByRule f pt g = .ok v →
    ∃ e : Fp12, e = v.nthPower ((Config.q ^ 12 - 1) / Config.N) ∧
      exec (.pair d a b) s = .next { s with x := fileWrite s.x d ⟨e, true, false⟩, latch := none, done := true } ∧
      ∃ t t', exec (.miller d a b) s = .next t ∧ exec (.fexp d d) t = .next t' ∧ t'.readX d = .ok ⟨e, true, false⟩

/-- MEMBER sets RESULT to 0 for zero, and else to whether φ(x) equals ((x^t)^t)^6, each power taken with x's U tag, and writes no
register (42_pairing.md R250). -/
def Obligations.MemberComparesFrobenius : Prop :=
  ∀ (a : RegIx) (s : State) (x : Tagged) (f : Fp2), s.initDone = true → s.readX a = .ok x → s.f = some f →
    ∃ r : Bool, exec (.member a) s = .next { s with result := r, latch := none, done := true } ∧
      (x.val = Fp12.zero → r = false) ∧
      (x.val ≠ Fp12.zero → ∀ p1 p2 p3, powValue x.val x.u Config.t = .ok p1 → powValue p1 x.u Config.t = .ok p2 →
        powValue p2 x.u 6 = .ok p3 → (r = true ↔ Fp12.phi f x.val = p3))

/-- For a nonzero value with U = 0 and the constant INIT derives, MEMBER answers 1 exactly when x^N = 1 (42_pairing.md
R250, where the spec marks it as derived; log 14). -/
def Obligations.MemberTestsOrderN : Prop :=
  ∀ (a : RegIx) (s : State) (x : Tagged), s.initDone = true → s.f = some frobeniusConstant → s.readX a = .ok x →
    x.u = false → x.val ≠ Fp12.zero →
    ∃ t, exec (.member a) s = .next t ∧ (t.result = true ↔ x.val.nthPower Config.N = Fp12.one)

/-! ## Errors -/

/-- The engine step of a command, legal or not, that fails with code c sets ERR, ERRCODE = c, ERRCMD to the word LATCH held and
BUSY = 0, and changes nothing else (60_exceptions.md R310). -/
def Obligations.FailedCommandCommitsNothing : Prop :=
  ∀ (s t : State) (w : Word) (c : ErrorCode), s.latch = some ⟨w, 0⟩ → s.err = none → step s = .next t → t.err = some c →
    t = { s with err := some c, errcmd := w, latch := none } ∧ t.errcode = c.number ∧ t.busy = false

/-- Every command, on every state with ERR = 0, ends: BUSY = 0, and either DONE = 1 with ERR = 0, or ERR = 1 with DONE as it was
(10_state.md R57). -/
def Obligations.EveryCommandEndsInDoneOrError : Prop :=
  ∀ (i : Instr) (s : State), s.err = none →
    ∃ t, exec i s = .next t ∧ t.busy = false ∧
      ((t.done = true ∧ t.err = none) ∨ (t.err.isSome = true ∧ t.done = s.done))

/-- The order of the checks that do not depend on values: E_ILLEGAL first, then E_REINIT or E_NOT_INIT, then E_UNWRITTEN for any
source register that is unwritten (60_exceptions.md R301, R302, R303, R308). An ill-formed command stands for no word, and its
E_ILLEGAL is the model's reading (log 12). -/
def Obligations.ChecksComeInOrder : Prop :=
  ∀ (i : Instr) (s : State),
    (¬ i.WellFormed → FailsWith i s .illegal) ∧
    (i.WellFormed → i ≠ .nop → i ≠ .init → s.initDone = false → FailsWith i s .notInit) ∧
    (i = .init → s.initDone = true → FailsWith i s .reinit) ∧
    (i.WellFormed → s.initDone = true → (∃ r ∈ i.reads, s.written r = false) → FailsWith i s .unwritten)

/-! ## Frames -/

/-- A command leaves every register of the four files unchanged except the one it writes (10_state.md, who reads and writes
what). -/
def Obligations.OnlyDestinationRegisterChanges : Prop :=
  ∀ (i : Instr) (s t : State), exec i s = .next t →
    (∀ r : RegIx, i.writes ≠ some (.x r) → t.x[r.toNat]? = s.x[r.toNat]?) ∧
    (∀ r : RegIx, i.writes ≠ some (.p r) → t.p[r.toNat]? = s.p[r.toNat]?) ∧
    (∀ r : RegIx, i.writes ≠ some (.q r) → t.q[r.toNat]? = s.q[r.toNat]?) ∧
    (∀ r : RegIx, i.writes ≠ some (.k r) → t.k[r.toNat]? = s.k[r.toNat]?)

/-- A command leaves every DATA byte unchanged except bytes 0–383 for STX and 0–127 for STP (41_data.md R216). -/
def Obligations.OnlyStoredBytesChange : Prop :=
  ∀ (i : Instr) (s t : State), exec i s = .next t → ∀ o, i.storedBytes ≤ o → t.data.read o = s.data.read o

/-- RESULT is changed by EQ, MEMBER and STP only; F and INIT_DONE by INIT only; IRQ_EN, OVR, the reset input and the host's side by
no command (10_state.md R42, R45, R47, R51, R52). The reset input's level is the platform's (log 17); the pending host actions, the
last answer and the draw counter are the model's own fields (log 1, log 7, log 4). -/
def Obligations.FlagsChangeOnlyWhereNamed : Prop :=
  ∀ (i : Instr) (s t : State), exec i s = .next t →
    (i.writesResult = false → t.result = s.result) ∧
    (i ≠ .init → t.f = s.f ∧ t.initDone = s.initDone) ∧
    t.irqEn = s.irqEn ∧ t.ovr = s.ovr ∧ t.rstIn = s.rstIn ∧ t.host = s.host ∧ t.reply = s.reply ∧ t.draws = s.draws

/-- The tags of every command that writes an X register and completes (ERR stays 0) are those of the table, from the tags of the
sources it read, which were written (40_tower.md R156). -/
def Obligations.TagsPropagateByTable : Prop :=
  ∀ s t : State, s.err = none → t.err = none →
    (∀ d a b, exec (.mul d a b) s = .next t ∨ exec (.div d a b) s = .next t →
      ∃ x y v, s.readX a = .ok x ∧ s.readX b = .ok y ∧ t.readX d = .ok ⟨v, x.u && y.u, x.m || y.m⟩) ∧
    (∀ d a b i, exec (.sqr d a) s = .next t ∨ exec (.conj d a) s = .next t ∨ exec (.inv d a) s = .next t ∨
        exec (.frob d a i) s = .next t ∨ exec (.pow d a b) s = .next t ∨ exec (.mov d a) s = .next t →
      ∃ x v, s.readX a = .ok x ∧ t.readX d = .ok ⟨v, x.u, x.m⟩) ∧
    (∀ d, exec (.set1 d) s = .next t → ∃ v, t.readX d = .ok ⟨v, true, false⟩) ∧
    (∀ d i, exec (.ldx d i) s = .next t ∨ exec (.tag d i) s = .next t →
      ∃ v, t.readX d = .ok ⟨v, i.getLsbD 0, i.getLsbD 1⟩) ∧
    (∀ d a b, exec (.miller d a b) s = .next t → ∃ v, t.readX d = .ok ⟨v, false, true⟩) ∧
    (∀ d a b, exec (.fexp d a) s = .next t ∨ exec (.pair d a b) s = .next t → ∃ v, t.readX d = .ok ⟨v, true, false⟩)

/-! ## The host's side -/

/-- A CMD write is discarded with OVR = 1 while BUSY or ERR is 1, and is accepted otherwise: LATCH takes the word, DONE is cleared
and BUSY set (10_state.md R53). The latency is a free value (log 2). -/
def Obligations.CmdWriteAcceptsOrDiscards : Prop :=
  ∀ (s : State) (c : Word), s.rstIn = false →
    (s.busy = true ∨ s.err.isSome = true →
      hostAct s (.write (Config.engineBase + 0x00C) 4 c) = .next { s with ovr := true, reply := .written }) ∧
    (s.busy = false → s.err = none →
      hostAct s (.write (Config.engineBase + 0x00C) 4 c) =
        .next { s with latch := some ⟨c, Config.latency c s.draws⟩, done := false, draws := s.draws + 1, reply := .written })

/-- A STATUS write clears DONE, ERR with ERRCODE, and OVR where it has a 1 in bits 1, 2 and 3, and changes nothing else, ERRCMD
included (10_state.md R49–R52, 60_exceptions.md R312). -/
def Obligations.StatusWriteClearsNamedBits : Prop :=
  ∀ (s : State) (v : Word), s.rstIn = false →
    ∃ t, hostAct s (.write (Config.engineBase + 0x008) 4 v) = .next t ∧
      t = { s with done := t.done, err := t.err, ovr := t.ovr, reply := .written } ∧
      (v.getLsbD 1 = true → t.done = false) ∧ (v.getLsbD 1 = false → t.done = s.done) ∧
      (v.getLsbD 2 = true → t.err = none ∧ t.errcode = 0#8) ∧ (v.getLsbD 2 = false → t.err = s.err) ∧
      (v.getLsbD 3 = true → t.ovr = false) ∧ (v.getLsbD 3 = false → t.ovr = s.ovr)

/-- A STATUS read answers BUSY, DONE, ERR, OVR, INIT_DONE and RESULT in bits 0 to 5, ERRCODE in bits 15:8, and 0 in every other bit;
ERRCODE is 0 while ERR is 0 and the error's number in the table of R300 while it is 1; IRQ follows its equation. A CTRL read answers
IRQ_EN in bit 0 and 0 in every other bit, SRST among them (10_state.md R47–R52, R58; 60_exceptions.md R300). -/
def Obligations.StatusReadShowsFlags : Prop :=
  ∀ s : State, s.rstIn = false →
    (∃ v : Word, hostAct s (.read (Config.engineBase + 0x008) 4) = .next { s with reply := .data v } ∧
      v.getLsbD 0 = s.busy ∧ v.getLsbD 1 = s.done ∧ v.getLsbD 2 = s.err.isSome ∧ v.getLsbD 3 = s.ovr ∧
      v.getLsbD 4 = s.initDone ∧ v.getLsbD 5 = s.result ∧ v.getLsbD 6 = false ∧ v.getLsbD 7 = false ∧
      v.extractLsb' 8 8 = s.errcode ∧ v.extractLsb' 16 16 = 0#16) ∧
    (s.err = none → s.errcode = 0#8) ∧ (s.err = some .illegal → s.errcode = 1#8) ∧ (s.err = some .notInit → s.errcode = 2#8) ∧
    (s.err = some .reinit → s.errcode = 3#8) ∧ (s.err = some .unwritten → s.errcode = 4#8) ∧
    (s.err = some .range → s.errcode = 5#8) ∧ (s.err = some .zeroInv → s.errcode = 6#8) ∧
    (s.err = some .pair → s.errcode = 7#8) ∧
    s.irq = (s.irqEn && (s.done || s.err.isSome || s.ovr)) ∧
    ∃ c : Word, hostAct s (.read (Config.engineBase + 0x004) 4) = .next { s with reply := .data c } ∧
      c.getLsbD 0 = s.irqEn ∧ c.getLsbD 1 = false ∧ c.extractLsb' 2 30 = 0#30

/-- A CTRL write sets IRQ_EN from bit 0; with bit 1 set it then resets: every piece of the machine's state has its reset value, a
running command is abandoned. Asserting the reset input does the same (10_state.md R47, 70_reset_and_hazards.md R340, R341). What
the host still has to do, the last answer and the draw counter are the model's own and stay (log 17). -/
def Obligations.ResetAppliesTable : Prop :=
  ∀ (s : State) (v : Word), s.rstIn = false →
    (v.getLsbD 1 = false → hostAct s (.write (Config.engineBase + 0x004) 4 v) =
      .next { s with irqEn := v.getLsbD 0, reply := .written }) ∧
    (v.getLsbD 1 = true → hostAct s (.write (Config.engineBase + 0x004) 4 v) =
      .next { State.reset with host := s.host, reply := .written, draws := s.draws }) ∧
    hostAct s .assertReset =
      .next { State.reset with rstIn := true, host := s.host, reply := s.reply, draws := s.draws } ∧
    (State.reset.statusWord = 0#32 ∧ State.reset.ctrlWord = 0#32 ∧ State.reset.errcmd = 0#32 ∧ State.reset.irq = false ∧
      (∀ r : RegRef, State.reset.written r = false) ∧ (∀ o, State.reset.data.read o = 0#8) ∧ State.reset.f = none)

/-- A DATA word written while BUSY = 0 stores its four bytes, most significant first, and reads back; every other byte is
unchanged (20_memory.md R84, R88). -/
def Obligations.DataWordWriteReadsBack : Prop :=
  ∀ (s : State) (k : Nat) (v : Word), s.rstIn = false → s.busy = false → s.data.wf → k < 96 →
    ∃ m : Memory,
      hostAct s (.write (Config.engineBase + (0x100 + 4 * k)) 4 v) = .next { s with data := m, reply := .written } ∧
      m.read (4 * k) = v.extractLsb' 24 8 ∧ m.read (4 * k + 1) = v.extractLsb' 16 8 ∧
      m.read (4 * k + 2) = v.extractLsb' 8 8 ∧ m.read (4 * k + 3) = v.extractLsb' 0 8 ∧
      (∀ o, o < 4 * k ∨ 4 * k + 4 ≤ o → m.read o = s.data.read o) ∧
      hostAct { s with data := m } (.read (Config.engineBase + (0x100 + 4 * k)) 4) =
        .next { s with data := m, reply := .data v }

/-- While BUSY = 1 a DATA write is discarded and sets OVR, and a DATA read changes no state of the machine, whatever value it
returns (20_memory.md R88). The value read is free (log 4). -/
def Obligations.DataAccessWhileBusy : Prop :=
  ∀ (s : State) (k : Nat) (v : Word), s.rstIn = false → s.busy = true → k < 96 →
    hostAct s (.write (Config.engineBase + (0x100 + 4 * k)) 4 v) = .next { s with ovr := true, reply := .written } ∧
    ∃ r : Word, hostAct s (.read (Config.engineBase + (0x100 + 4 * k)) 4) =
      .next { s with reply := .data r, draws := s.draws + 1 }

/-- An access in the window of another width than 32 bits or at an offset that is no multiple of 4 is a bus error that changes no
state of the machine; an aligned access to a word not named in the map reads 0 and ignores a write, and so do a write of ID and
ERRCMD and a read of CMD (20_memory.md R83, 10_state.md R46, R53–R55). -/
def Obligations.OtherAccessesChangeNothing : Prop :=
  ∀ (s : State) (off size : Nat) (v : Word), s.rstIn = false → off < 4096 →
    (size ≠ 4 ∨ off % 4 ≠ 0 →
      hostAct s (.read (Config.engineBase + off) size) = .next { s with reply := .busError } ∧
      hostAct s (.write (Config.engineBase + off) size v) = .next { s with reply := .busError }) ∧
    (off % 4 = 0 → (0x014 ≤ off ∧ off < 0x100) ∨ 0x280 ≤ off →
      hostAct s (.read (Config.engineBase + off) 4) = .next { s with reply := .data 0#32 } ∧
      hostAct s (.write (Config.engineBase + off) 4 v) = .next { s with reply := .written }) ∧
    (off = 0x000 →
      hostAct s (.read (Config.engineBase + off) 4) = .next { s with reply := .data 0x46503132#32 } ∧
      hostAct s (.write (Config.engineBase + off) 4 v) = .next { s with reply := .written }) ∧
    (off = 0x010 →
      hostAct s (.read (Config.engineBase + off) 4) = .next { s with reply := .data s.errcmd } ∧
      hostAct s (.write (Config.engineBase + off) 4 v) = .next { s with reply := .written }) ∧
    (off = 0x00C → hostAct s (.read (Config.engineBase + off) 4) = .next { s with reply := .data 0#32 })

/-- No read has a side effect: whatever its address and width, a read that goes on changes only the answer and the model's count of
free values drawn (20_memory.md R89). -/
def Obligations.ReadsHaveNoSideEffect : Prop :=
  ∀ (s t : State) (addr size : Nat), hostAct s (.read addr size) = .next t →
    t = { s with reply := t.reply, draws := t.draws }

/-! ## Safety and invariants -/

/-- A step in which no engine step is due performs the host's next action, with that action taken off the list and one period of the
latency passed where a command is latched, and nothing where the host has no action. A step goes on exactly when it is the engine
step, or the host has nothing to do, or its next action is one the host interface table allows (20_memory.md host interface table,
R87, R93; log 1, log 2, log 5, log 6). So no command ever stops the machine. -/
def Obligations.StepStopsOnlyOnDisallowedHostAction : Prop :=
  ∀ s : State,
    (s.SafeStep ↔ (s.engineDue = true ∨ ∀ act, s.host.head? = some act → act.Allowed s)) ∧
    (s.engineDue = true ↔ ∃ w, s.latch = some ⟨w, 0⟩) ∧
    (s.latch = none → s.host = [] → step s = .next s) ∧
    (∀ act rest, s.latch = none → s.host = act :: rest → step s = hostAct { s with host := rest } act) ∧
    (∀ w n, s.latch = some ⟨w, n + 1⟩ → s.host = [] → step s = .next { s with latch := some ⟨w, n⟩ }) ∧
    (∀ w n act rest, s.latch = some ⟨w, n + 1⟩ → s.host = act :: rest →
      step s = hostAct { s with latch := some ⟨w, n⟩, host := rest } act)

/-- Every step keeps the invariant, from every state that has it. -/
def Obligations.StepKeepsInvariant : Prop := ∀ s t : State, s.Inv → step s = .next t → t.Inv

/-- The state right after reset has the invariant. -/
def Obligations.ResetHasInvariant : Prop := State.reset.Inv
end

