-- ==== Sys2Proof/Laws/Memory.lean ====
section
/-! SUPPORT. Laws of the DATA buffer: a read after a write, the canonical form is kept, and big-endian numbers. -/

namespace Sys2Proof.Machine

@[simp] theorem Memory.read_nil (o : Nat) : Memory.read [] o = unlistedByte := rfl

theorem Memory.read_cons (c : Host.Cell) (m : Memory) (o : Nat) :
    Memory.read (c :: m) o = if o = c.1 then c.2 else Memory.read m o := rfl

/-- An offset below every listed one is unlisted. -/
theorem Memory.read_of_lt {m : Memory} {o : Nat} (h : ∀ c ∈ m, o < c.1) : m.read o = unlistedByte := by
  induction m with
  | nil => rfl
  | cons c m ih =>
    have hc := h c List.mem_cons_self
    rw [Memory.read_cons, if_neg (by omega)]
    exact ih fun c' hc' => h c' (List.mem_cons_of_mem _ hc')

theorem Memory.wf_tail {c : Host.Cell} {m : Memory} (h : Memory.wf (c :: m)) : Memory.wf m :=
  ⟨(List.pairwise_cons.mp h.1).2, fun c' hc' => h.2 c' (List.mem_cons_of_mem _ hc')⟩

theorem Memory.wf_head_lt {c : Host.Cell} {m : Memory} (h : Memory.wf (c :: m)) : ∀ c' ∈ m, c.1 < c'.1 :=
  (List.pairwise_cons.mp h.1).1

theorem Memory.mem_entry {o : Nat} {b : Byte} {m : Memory} {c : Host.Cell} (h : c ∈ Memory.entry o b m) :
    (c = (o, b) ∧ b ≠ unlistedByte) ∨ c ∈ m := by
  unfold Memory.entry at h
  split at h
  · exact .inr h
  · rcases List.mem_cons.mp h with rfl | h
    · exact .inl ⟨rfl, ‹_›⟩
    · exact .inr h

theorem Memory.read_entry_same {o : Nat} {b : Byte} {m : Memory} (h : ∀ c ∈ m, o < c.1) :
    (Memory.entry o b m).read o = b := by
  unfold Memory.entry
  split
  · subst b; exact Memory.read_of_lt h
  · simp [Memory.read_cons]

theorem Memory.read_entry_other {o o' : Nat} {b : Byte} {m : Memory} (h : o' ≠ o) :
    (Memory.entry o b m).read o' = m.read o' := by
  unfold Memory.entry
  split
  · rfl
  · simp [Memory.read_cons, h]

theorem Memory.wf_entry {o : Nat} {b : Byte} {m : Memory} (hm : m.wf) (h : ∀ c ∈ m, o < c.1) :
    (Memory.entry o b m).wf := by
  unfold Memory.entry
  split
  · exact hm
  · refine ⟨List.pairwise_cons.mpr ⟨h, hm.1⟩, ?_⟩
    intro c hc
    rcases List.mem_cons.mp hc with rfl | hc
    · assumption
    · exact hm.2 c hc

/-- Every entry after a write is the written one or was there before. -/
theorem Memory.mem_write {m : Memory} {o : Nat} {b : Byte} {c : Host.Cell} (h : c ∈ m.write o b) :
    (c = (o, b) ∧ b ≠ unlistedByte) ∨ c ∈ m := by
  induction m with
  | nil => exact Memory.mem_entry h
  | cons d m ih =>
    obtain ⟨k, v⟩ := d
    unfold Memory.write at h
    split at h
    · exact Memory.mem_entry h
    · split at h
      · rcases Memory.mem_entry h with h | h
        · exact .inl h
        · exact .inr (List.mem_cons_of_mem _ h)
      · rcases List.mem_cons.mp h with rfl | h
        · exact .inr List.mem_cons_self
        · exact (ih h).imp_right (List.mem_cons_of_mem _)

/-- A write keeps the canonical form. -/
theorem Memory.wf_write {m : Memory} (hm : m.wf) (o : Nat) (b : Byte) : (m.write o b).wf := by
  induction m with
  | nil => exact Memory.wf_entry hm (by simp)
  | cons d m ih =>
    obtain ⟨k, v⟩ := d
    have hlt := Memory.wf_head_lt hm
    have ht := Memory.wf_tail hm
    unfold Memory.write
    split
    · next h =>
      refine Memory.wf_entry hm fun c hc => ?_
      rcases List.mem_cons.mp hc with rfl | hc
      · exact h
      · exact Nat.lt_trans h (hlt c hc)
    · split
      · next h => subst h; exact Memory.wf_entry ht hlt
      · next h1 h2 =>
        refine ⟨List.pairwise_cons.mpr ⟨fun c hc => ?_, (ih ht).1⟩, fun c hc => ?_⟩
        · rcases Memory.mem_write hc with ⟨rfl, -⟩ | hc
          · show k < o; omega
          · exact hlt c hc
        · rcases List.mem_cons.mp hc with rfl | hc
          · exact hm.2 _ List.mem_cons_self
          · exact (ih ht).2 c hc

/-- A write inside DATA keeps every listed offset inside DATA. -/
theorem Memory.inData_write {m : Memory} (hm : m.inData) {o : Nat} (ho : o < Config.dataSize) (b : Byte) :
    (m.write o b).inData := by
  intro c hc
  rcases Memory.mem_write hc with ⟨rfl, -⟩ | hc
  · exact ho
  · exact hm c hc

/-- A read after a write to the same offset gives the byte written. -/
theorem Memory.read_write_same {m : Memory} (hm : m.wf) (o : Nat) (b : Byte) : (m.write o b).read o = b := by
  induction m with
  | nil => exact Memory.read_entry_same (by simp)
  | cons d m ih =>
    obtain ⟨k, v⟩ := d
    have hlt := Memory.wf_head_lt hm
    unfold Memory.write
    split
    · next h =>
      refine Memory.read_entry_same fun c hc => ?_
      rcases List.mem_cons.mp hc with rfl | hc
      · exact h
      · exact Nat.lt_trans h (hlt c hc)
    · split
      · next h => subst h; exact Memory.read_entry_same hlt
      · next h1 h2 =>
        rw [Memory.read_cons, if_neg h2]
        exact ih (Memory.wf_tail hm)

/-- A write leaves every other offset alone. -/
theorem Memory.read_write_other {m : Memory} {o o' : Nat} (b : Byte) (h : o' ≠ o) :
    (m.write o b).read o' = m.read o' := by
  induction m with
  | nil => exact Memory.read_entry_other h
  | cons d m ih =>
    obtain ⟨k, v⟩ := d
    unfold Memory.write
    split
    · exact Memory.read_entry_other h
    · split
      · next h1 h2 =>
        subst h2
        rw [Memory.read_entry_other h, Memory.read_cons, if_neg h]
      · rw [Memory.read_cons, Memory.read_cons, ih]

/-! ## Numbers of several bytes -/

theorem Memory.wf_writeNat {m : Memory} (hm : m.wf) (off n v : Nat) : (m.writeNat off n v).wf := by
  induction n generalizing v with
  | zero => exact hm
  | succ n ih => exact Memory.wf_write (ih _) _ _

theorem Memory.inData_writeNat {m : Memory} (hm : m.inData) {off n : Nat} (h : off + n ≤ Config.dataSize) (v : Nat) :
    (m.writeNat off n v).inData := by
  induction n generalizing v with
  | zero => exact hm
  | succ n ih => exact Memory.inData_write (ih (by omega) _) (by omega) _

/-- A write of n bytes leaves every byte outside its range alone. -/
theorem Memory.read_writeNat_other {m : Memory} {off n o : Nat} (v : Nat) (h : o < off ∨ off + n ≤ o) :
    (m.writeNat off n v).read o = m.read o := by
  induction n generalizing v with
  | zero => rfl
  | succ n ih =>
    unfold Memory.writeNat
    rw [Memory.read_write_other _ (by omega), ih _ (by omega)]

/-- Equal bytes make equal numbers. -/
theorem Memory.readNat_congr {m m' : Memory} {off n : Nat} (h : ∀ o, off ≤ o → o < off + n → m.read o = m'.read o) :
    m.readNat off n = m'.readNat off n := by
  induction n with
  | zero => rfl
  | succ n ih =>
    unfold Memory.readNat
    rw [ih fun o h1 h2 => h o h1 (by omega), h (off + n) (by omega) (by omega)]

theorem Memory.readNat_writeNat_other {m : Memory} {off n off' n' : Nat} (v : Nat)
    (h : off' + n' ≤ off ∨ off + n ≤ off') : (m.writeNat off n v).readNat off' n' = m.readNat off' n' :=
  Memory.readNat_congr fun _ _ _ => Memory.read_writeNat_other v (by omega)

/-- Reading back the bytes a number was stored to gives the number, cut to the bytes. -/
theorem Memory.readNat_writeNat_same {m : Memory} (hm : m.wf) (off n v : Nat) :
    (m.writeNat off n v).readNat off n = v % 256 ^ n := by
  induction n generalizing v with
  | zero => simp [Memory.readNat, Nat.mod_one]
  | succ n ih =>
    unfold Memory.readNat Memory.writeNat
    rw [Memory.read_write_same (Memory.wf_writeNat hm _ _ _),
      Memory.readNat_congr (m' := m.writeNat off n (v / 256))
        (fun o _ h2 => Memory.read_write_other _ (by omega)), ih]
    rw [BitVec.toNat_ofNat, show 256 ^ (n + 1) = 256 * 256 ^ n by rw [Nat.pow_succ, Nat.mul_comm], Nat.mod_mul]
    omega

theorem Memory.readNat_lt (m : Memory) (off n : Nat) : m.readNat off n < 256 ^ n := by
  induction n with
  | zero => simp [Memory.readNat]
  | succ n ih =>
    have hb := (m.read (off + n)).isLt
    unfold Memory.readNat
    rw [Nat.pow_succ]
    omega

/-! ## Limbs stored one after the other -/

theorem Memory.wf_writeLimbs {m : Memory} (hm : m.wf) (off : Nat) (ls : List Nat) : (m.writeLimbs off ls).wf := by
  induction ls generalizing m off with
  | nil => exact hm
  | cons l ls ih =>
    unfold Memory.writeLimbs
    exact ih (Memory.wf_writeNat hm _ _ _) _

theorem Memory.inData_writeLimbs {m : Memory} (hm : m.inData) {off : Nat} {ls : List Nat}
    (h : off + 32 * ls.length ≤ Config.dataSize) : (m.writeLimbs off ls).inData := by
  induction ls generalizing m off with
  | nil => exact hm
  | cons l ls ih =>
    rw [List.length_cons] at h
    unfold Memory.writeLimbs
    exact ih (Memory.inData_writeNat hm (by omega) _) (by omega)

theorem Memory.read_writeLimbs_other {m : Memory} {off o : Nat} {ls : List Nat}
    (h : o < off ∨ off + 32 * ls.length ≤ o) : (m.writeLimbs off ls).read o = m.read o := by
  induction ls generalizing m off with
  | nil => rfl
  | cons l ls ih =>
    rw [List.length_cons] at h
    unfold Memory.writeLimbs
    rw [ih (by omega), Memory.read_writeNat_other _ (by omega)]

/-- Limb `j` reads back as it was stored. -/
theorem Memory.readNat_writeLimbs {m : Memory} (hm : m.wf) (off : Nat) (ls : List Nat) (j : Nat) (hj : j < ls.length) :
    (m.writeLimbs off ls).readNat (off + 32 * j) 32 = ls[j] % 256 ^ 32 := by
  induction ls generalizing m off j with
  | nil => simp at hj
  | cons l ls ih =>
    unfold Memory.writeLimbs
    cases j with
    | zero =>
      rw [Memory.readNat_congr (m' := m.writeNat off 32 l)
        (fun o h1 h2 => Memory.read_writeLimbs_other (by omega))]
      exact Memory.readNat_writeNat_same hm _ _ _
    | succ j =>
      rw [List.length_cons] at hj
      have := ih (Memory.wf_writeNat hm off 32 l) (off + 32) j (by omega)
      rw [show off + 32 * (j + 1) = off + 32 + 32 * j by omega, this]
      rfl

/-- Two memories in canonical form that read alike are equal. -/
theorem Memory.ext_of_wf {m m' : Memory} (hm : m.wf) (hm' : m'.wf) (h : ∀ o, m.read o = m'.read o) : m = m' := by
  induction m generalizing m' with
  | nil =>
    cases m' with
    | nil => rfl
    | cons c m' =>
      have := h c.1
      rw [Memory.read_cons, if_pos rfl] at this
      exact absurd this.symm (hm'.2 c List.mem_cons_self)
  | cons c m ih =>
    cases m' with
    | nil =>
      have := h c.1
      rw [Memory.read_cons, if_pos rfl] at this
      exact absurd this (hm.2 c List.mem_cons_self)
    | cons c' m' =>
      have hlt := Memory.wf_head_lt hm
      have hlt' := Memory.wf_head_lt hm'
      have key : c.1 = c'.1 := by
        rcases Nat.lt_trichotomy c.1 c'.1 with hc | hc | hc
        · have := h c.1
          rw [Memory.read_cons, if_pos rfl, Memory.read_cons, if_neg (by omega),
            Memory.read_of_lt (fun d hd => Nat.lt_trans hc (hlt' d hd))] at this
          exact absurd this (hm.2 c List.mem_cons_self)
        · exact hc
        · have := h c'.1
          rw [Memory.read_cons, if_neg (by omega), Memory.read_cons, if_pos rfl,
            Memory.read_of_lt (fun d hd => Nat.lt_trans hc (hlt d hd))] at this
          exact absurd this.symm (hm'.2 c' List.mem_cons_self)
      have hv := h c.1
      rw [Memory.read_cons, if_pos rfl, Memory.read_cons, if_pos key] at hv
      have hcc : c = c' := Prod.ext key hv
      subst hcc
      congr 1
      refine ih (Memory.wf_tail hm) (Memory.wf_tail hm') fun o => ?_
      by_cases ho : o = c.1
      · subst ho
        rw [Memory.read_of_lt hlt, Memory.read_of_lt hlt']
      · have := h o
        rwa [Memory.read_cons, if_neg ho, Memory.read_cons, if_neg ho] at this

end Sys2Proof.Machine
end

