-- ==== Sys2Proof/Laws/State.lean ====
section
/-! SUPPORT. One lemma per field per update of the state, true by rfl. -/

namespace Sys2Proof.Machine

variable (s : State)

@[simp] theorem State.complete_x : (s.complete).x = s.x := rfl
@[simp] theorem State.complete_p : (s.complete).p = s.p := rfl
@[simp] theorem State.complete_q : (s.complete).q = s.q := rfl
@[simp] theorem State.complete_k : (s.complete).k = s.k := rfl
@[simp] theorem State.complete_f : (s.complete).f = s.f := rfl
@[simp] theorem State.complete_data : (s.complete).data = s.data := rfl
@[simp] theorem State.complete_irqEn : (s.complete).irqEn = s.irqEn := rfl
@[simp] theorem State.complete_done : (s.complete).done = true := rfl
@[simp] theorem State.complete_err : (s.complete).err = s.err := rfl
@[simp] theorem State.complete_ovr : (s.complete).ovr = s.ovr := rfl
@[simp] theorem State.complete_initDone : (s.complete).initDone = s.initDone := rfl
@[simp] theorem State.complete_result : (s.complete).result = s.result := rfl
@[simp] theorem State.complete_errcmd : (s.complete).errcmd = s.errcmd := rfl
@[simp] theorem State.complete_latch : (s.complete).latch = none := rfl
@[simp] theorem State.complete_rstIn : (s.complete).rstIn = s.rstIn := rfl
@[simp] theorem State.complete_host : (s.complete).host = s.host := rfl
@[simp] theorem State.complete_reply : (s.complete).reply = s.reply := rfl
@[simp] theorem State.complete_draws : (s.complete).draws = s.draws := rfl

@[simp] theorem State.fail_x (c : ErrorCode) : (s.fail c).x = s.x := rfl
@[simp] theorem State.fail_p (c : ErrorCode) : (s.fail c).p = s.p := rfl
@[simp] theorem State.fail_q (c : ErrorCode) : (s.fail c).q = s.q := rfl
@[simp] theorem State.fail_k (c : ErrorCode) : (s.fail c).k = s.k := rfl
@[simp] theorem State.fail_f (c : ErrorCode) : (s.fail c).f = s.f := rfl
@[simp] theorem State.fail_data (c : ErrorCode) : (s.fail c).data = s.data := rfl
@[simp] theorem State.fail_irqEn (c : ErrorCode) : (s.fail c).irqEn = s.irqEn := rfl
@[simp] theorem State.fail_done (c : ErrorCode) : (s.fail c).done = s.done := rfl
@[simp] theorem State.fail_err (c : ErrorCode) : (s.fail c).err = some c := rfl
@[simp] theorem State.fail_ovr (c : ErrorCode) : (s.fail c).ovr = s.ovr := rfl
@[simp] theorem State.fail_initDone (c : ErrorCode) : (s.fail c).initDone = s.initDone := rfl
@[simp] theorem State.fail_result (c : ErrorCode) : (s.fail c).result = s.result := rfl
@[simp] theorem State.fail_errcmd (c : ErrorCode) : (s.fail c).errcmd = s.latchedWord := rfl
@[simp] theorem State.fail_latch (c : ErrorCode) : (s.fail c).latch = none := rfl
@[simp] theorem State.fail_rstIn (c : ErrorCode) : (s.fail c).rstIn = s.rstIn := rfl
@[simp] theorem State.fail_host (c : ErrorCode) : (s.fail c).host = s.host := rfl
@[simp] theorem State.fail_reply (c : ErrorCode) : (s.fail c).reply = s.reply := rfl
@[simp] theorem State.fail_draws (c : ErrorCode) : (s.fail c).draws = s.draws := rfl

@[simp] theorem State.writeX_x (i : RegIx) (v : Tagged) : (s.writeX i v).x = fileWrite s.x i v := rfl
@[simp] theorem State.writeX_p (i : RegIx) (v : Tagged) : (s.writeX i v).p = s.p := rfl
@[simp] theorem State.writeX_q (i : RegIx) (v : Tagged) : (s.writeX i v).q = s.q := rfl
@[simp] theorem State.writeX_k (i : RegIx) (v : Tagged) : (s.writeX i v).k = s.k := rfl
@[simp] theorem State.writeX_f (i : RegIx) (v : Tagged) : (s.writeX i v).f = s.f := rfl
@[simp] theorem State.writeX_data (i : RegIx) (v : Tagged) : (s.writeX i v).data = s.data := rfl
@[simp] theorem State.writeX_irqEn (i : RegIx) (v : Tagged) : (s.writeX i v).irqEn = s.irqEn := rfl
@[simp] theorem State.writeX_done (i : RegIx) (v : Tagged) : (s.writeX i v).done = s.done := rfl
@[simp] theorem State.writeX_err (i : RegIx) (v : Tagged) : (s.writeX i v).err = s.err := rfl
@[simp] theorem State.writeX_ovr (i : RegIx) (v : Tagged) : (s.writeX i v).ovr = s.ovr := rfl
@[simp] theorem State.writeX_initDone (i : RegIx) (v : Tagged) : (s.writeX i v).initDone = s.initDone := rfl
@[simp] theorem State.writeX_result (i : RegIx) (v : Tagged) : (s.writeX i v).result = s.result := rfl
@[simp] theorem State.writeX_errcmd (i : RegIx) (v : Tagged) : (s.writeX i v).errcmd = s.errcmd := rfl
@[simp] theorem State.writeX_latch (i : RegIx) (v : Tagged) : (s.writeX i v).latch = s.latch := rfl
@[simp] theorem State.writeX_rstIn (i : RegIx) (v : Tagged) : (s.writeX i v).rstIn = s.rstIn := rfl
@[simp] theorem State.writeX_host (i : RegIx) (v : Tagged) : (s.writeX i v).host = s.host := rfl
@[simp] theorem State.writeX_reply (i : RegIx) (v : Tagged) : (s.writeX i v).reply = s.reply := rfl
@[simp] theorem State.writeX_draws (i : RegIx) (v : Tagged) : (s.writeX i v).draws = s.draws := rfl

@[simp] theorem State.writeP_x (i : RegIx) (v : G2Point) : (s.writeP i v).x = s.x := rfl
@[simp] theorem State.writeP_p (i : RegIx) (v : G2Point) : (s.writeP i v).p = fileWrite s.p i v := rfl
@[simp] theorem State.writeP_q (i : RegIx) (v : G2Point) : (s.writeP i v).q = s.q := rfl
@[simp] theorem State.writeP_k (i : RegIx) (v : G2Point) : (s.writeP i v).k = s.k := rfl
@[simp] theorem State.writeP_f (i : RegIx) (v : G2Point) : (s.writeP i v).f = s.f := rfl
@[simp] theorem State.writeP_data (i : RegIx) (v : G2Point) : (s.writeP i v).data = s.data := rfl
@[simp] theorem State.writeP_irqEn (i : RegIx) (v : G2Point) : (s.writeP i v).irqEn = s.irqEn := rfl
@[simp] theorem State.writeP_done (i : RegIx) (v : G2Point) : (s.writeP i v).done = s.done := rfl
@[simp] theorem State.writeP_err (i : RegIx) (v : G2Point) : (s.writeP i v).err = s.err := rfl
@[simp] theorem State.writeP_ovr (i : RegIx) (v : G2Point) : (s.writeP i v).ovr = s.ovr := rfl
@[simp] theorem State.writeP_initDone (i : RegIx) (v : G2Point) : (s.writeP i v).initDone = s.initDone := rfl
@[simp] theorem State.writeP_result (i : RegIx) (v : G2Point) : (s.writeP i v).result = s.result := rfl
@[simp] theorem State.writeP_errcmd (i : RegIx) (v : G2Point) : (s.writeP i v).errcmd = s.errcmd := rfl
@[simp] theorem State.writeP_latch (i : RegIx) (v : G2Point) : (s.writeP i v).latch = s.latch := rfl
@[simp] theorem State.writeP_rstIn (i : RegIx) (v : G2Point) : (s.writeP i v).rstIn = s.rstIn := rfl
@[simp] theorem State.writeP_host (i : RegIx) (v : G2Point) : (s.writeP i v).host = s.host := rfl
@[simp] theorem State.writeP_reply (i : RegIx) (v : G2Point) : (s.writeP i v).reply = s.reply := rfl
@[simp] theorem State.writeP_draws (i : RegIx) (v : G2Point) : (s.writeP i v).draws = s.draws := rfl

@[simp] theorem State.writeQ_x (i : RegIx) (v : G1Point) : (s.writeQ i v).x = s.x := rfl
@[simp] theorem State.writeQ_p (i : RegIx) (v : G1Point) : (s.writeQ i v).p = s.p := rfl
@[simp] theorem State.writeQ_q (i : RegIx) (v : G1Point) : (s.writeQ i v).q = fileWrite s.q i v := rfl
@[simp] theorem State.writeQ_k (i : RegIx) (v : G1Point) : (s.writeQ i v).k = s.k := rfl
@[simp] theorem State.writeQ_f (i : RegIx) (v : G1Point) : (s.writeQ i v).f = s.f := rfl
@[simp] theorem State.writeQ_data (i : RegIx) (v : G1Point) : (s.writeQ i v).data = s.data := rfl
@[simp] theorem State.writeQ_irqEn (i : RegIx) (v : G1Point) : (s.writeQ i v).irqEn = s.irqEn := rfl
@[simp] theorem State.writeQ_done (i : RegIx) (v : G1Point) : (s.writeQ i v).done = s.done := rfl
@[simp] theorem State.writeQ_err (i : RegIx) (v : G1Point) : (s.writeQ i v).err = s.err := rfl
@[simp] theorem State.writeQ_ovr (i : RegIx) (v : G1Point) : (s.writeQ i v).ovr = s.ovr := rfl
@[simp] theorem State.writeQ_initDone (i : RegIx) (v : G1Point) : (s.writeQ i v).initDone = s.initDone := rfl
@[simp] theorem State.writeQ_result (i : RegIx) (v : G1Point) : (s.writeQ i v).result = s.result := rfl
@[simp] theorem State.writeQ_errcmd (i : RegIx) (v : G1Point) : (s.writeQ i v).errcmd = s.errcmd := rfl
@[simp] theorem State.writeQ_latch (i : RegIx) (v : G1Point) : (s.writeQ i v).latch = s.latch := rfl
@[simp] theorem State.writeQ_rstIn (i : RegIx) (v : G1Point) : (s.writeQ i v).rstIn = s.rstIn := rfl
@[simp] theorem State.writeQ_host (i : RegIx) (v : G1Point) : (s.writeQ i v).host = s.host := rfl
@[simp] theorem State.writeQ_reply (i : RegIx) (v : G1Point) : (s.writeQ i v).reply = s.reply := rfl
@[simp] theorem State.writeQ_draws (i : RegIx) (v : G1Point) : (s.writeQ i v).draws = s.draws := rfl

@[simp] theorem State.writeK_x (i : RegIx) (v : Exponent) : (s.writeK i v).x = s.x := rfl
@[simp] theorem State.writeK_p (i : RegIx) (v : Exponent) : (s.writeK i v).p = s.p := rfl
@[simp] theorem State.writeK_q (i : RegIx) (v : Exponent) : (s.writeK i v).q = s.q := rfl
@[simp] theorem State.writeK_k (i : RegIx) (v : Exponent) : (s.writeK i v).k = fileWrite s.k i v := rfl
@[simp] theorem State.writeK_f (i : RegIx) (v : Exponent) : (s.writeK i v).f = s.f := rfl
@[simp] theorem State.writeK_data (i : RegIx) (v : Exponent) : (s.writeK i v).data = s.data := rfl
@[simp] theorem State.writeK_irqEn (i : RegIx) (v : Exponent) : (s.writeK i v).irqEn = s.irqEn := rfl
@[simp] theorem State.writeK_done (i : RegIx) (v : Exponent) : (s.writeK i v).done = s.done := rfl
@[simp] theorem State.writeK_err (i : RegIx) (v : Exponent) : (s.writeK i v).err = s.err := rfl
@[simp] theorem State.writeK_ovr (i : RegIx) (v : Exponent) : (s.writeK i v).ovr = s.ovr := rfl
@[simp] theorem State.writeK_initDone (i : RegIx) (v : Exponent) : (s.writeK i v).initDone = s.initDone := rfl
@[simp] theorem State.writeK_result (i : RegIx) (v : Exponent) : (s.writeK i v).result = s.result := rfl
@[simp] theorem State.writeK_errcmd (i : RegIx) (v : Exponent) : (s.writeK i v).errcmd = s.errcmd := rfl
@[simp] theorem State.writeK_latch (i : RegIx) (v : Exponent) : (s.writeK i v).latch = s.latch := rfl
@[simp] theorem State.writeK_rstIn (i : RegIx) (v : Exponent) : (s.writeK i v).rstIn = s.rstIn := rfl
@[simp] theorem State.writeK_host (i : RegIx) (v : Exponent) : (s.writeK i v).host = s.host := rfl
@[simp] theorem State.writeK_reply (i : RegIx) (v : Exponent) : (s.writeK i v).reply = s.reply := rfl
@[simp] theorem State.writeK_draws (i : RegIx) (v : Exponent) : (s.writeK i v).draws = s.draws := rfl

@[simp] theorem State.setData_x (m : Memory) : (s.setData m).x = s.x := rfl
@[simp] theorem State.setData_p (m : Memory) : (s.setData m).p = s.p := rfl
@[simp] theorem State.setData_q (m : Memory) : (s.setData m).q = s.q := rfl
@[simp] theorem State.setData_k (m : Memory) : (s.setData m).k = s.k := rfl
@[simp] theorem State.setData_f (m : Memory) : (s.setData m).f = s.f := rfl
@[simp] theorem State.setData_data (m : Memory) : (s.setData m).data = m := rfl
@[simp] theorem State.setData_irqEn (m : Memory) : (s.setData m).irqEn = s.irqEn := rfl
@[simp] theorem State.setData_done (m : Memory) : (s.setData m).done = s.done := rfl
@[simp] theorem State.setData_err (m : Memory) : (s.setData m).err = s.err := rfl
@[simp] theorem State.setData_ovr (m : Memory) : (s.setData m).ovr = s.ovr := rfl
@[simp] theorem State.setData_initDone (m : Memory) : (s.setData m).initDone = s.initDone := rfl
@[simp] theorem State.setData_result (m : Memory) : (s.setData m).result = s.result := rfl
@[simp] theorem State.setData_errcmd (m : Memory) : (s.setData m).errcmd = s.errcmd := rfl
@[simp] theorem State.setData_latch (m : Memory) : (s.setData m).latch = s.latch := rfl
@[simp] theorem State.setData_rstIn (m : Memory) : (s.setData m).rstIn = s.rstIn := rfl
@[simp] theorem State.setData_host (m : Memory) : (s.setData m).host = s.host := rfl
@[simp] theorem State.setData_reply (m : Memory) : (s.setData m).reply = s.reply := rfl
@[simp] theorem State.setData_draws (m : Memory) : (s.setData m).draws = s.draws := rfl

@[simp] theorem State.setResult_x (b : Bool) : (s.setResult b).x = s.x := rfl
@[simp] theorem State.setResult_p (b : Bool) : (s.setResult b).p = s.p := rfl
@[simp] theorem State.setResult_q (b : Bool) : (s.setResult b).q = s.q := rfl
@[simp] theorem State.setResult_k (b : Bool) : (s.setResult b).k = s.k := rfl
@[simp] theorem State.setResult_f (b : Bool) : (s.setResult b).f = s.f := rfl
@[simp] theorem State.setResult_data (b : Bool) : (s.setResult b).data = s.data := rfl
@[simp] theorem State.setResult_irqEn (b : Bool) : (s.setResult b).irqEn = s.irqEn := rfl
@[simp] theorem State.setResult_done (b : Bool) : (s.setResult b).done = s.done := rfl
@[simp] theorem State.setResult_err (b : Bool) : (s.setResult b).err = s.err := rfl
@[simp] theorem State.setResult_ovr (b : Bool) : (s.setResult b).ovr = s.ovr := rfl
@[simp] theorem State.setResult_initDone (b : Bool) : (s.setResult b).initDone = s.initDone := rfl
@[simp] theorem State.setResult_result (b : Bool) : (s.setResult b).result = b := rfl
@[simp] theorem State.setResult_errcmd (b : Bool) : (s.setResult b).errcmd = s.errcmd := rfl
@[simp] theorem State.setResult_latch (b : Bool) : (s.setResult b).latch = s.latch := rfl
@[simp] theorem State.setResult_rstIn (b : Bool) : (s.setResult b).rstIn = s.rstIn := rfl
@[simp] theorem State.setResult_host (b : Bool) : (s.setResult b).host = s.host := rfl
@[simp] theorem State.setResult_reply (b : Bool) : (s.setResult b).reply = s.reply := rfl
@[simp] theorem State.setResult_draws (b : Bool) : (s.setResult b).draws = s.draws := rfl

@[simp] theorem State.writeStatus_x (v : Word) : (s.writeStatus v).x = s.x := rfl
@[simp] theorem State.writeStatus_p (v : Word) : (s.writeStatus v).p = s.p := rfl
@[simp] theorem State.writeStatus_q (v : Word) : (s.writeStatus v).q = s.q := rfl
@[simp] theorem State.writeStatus_k (v : Word) : (s.writeStatus v).k = s.k := rfl
@[simp] theorem State.writeStatus_f (v : Word) : (s.writeStatus v).f = s.f := rfl
@[simp] theorem State.writeStatus_data (v : Word) : (s.writeStatus v).data = s.data := rfl
@[simp] theorem State.writeStatus_irqEn (v : Word) : (s.writeStatus v).irqEn = s.irqEn := rfl
@[simp] theorem State.writeStatus_done (v : Word) : (s.writeStatus v).done = (s.done && !v.getLsbD 1) := rfl
@[simp] theorem State.writeStatus_err (v : Word) : (s.writeStatus v).err = if v.getLsbD 2 then none else s.err := rfl
@[simp] theorem State.writeStatus_ovr (v : Word) : (s.writeStatus v).ovr = (s.ovr && !v.getLsbD 3) := rfl
@[simp] theorem State.writeStatus_initDone (v : Word) : (s.writeStatus v).initDone = s.initDone := rfl
@[simp] theorem State.writeStatus_result (v : Word) : (s.writeStatus v).result = s.result := rfl
@[simp] theorem State.writeStatus_errcmd (v : Word) : (s.writeStatus v).errcmd = s.errcmd := rfl
@[simp] theorem State.writeStatus_latch (v : Word) : (s.writeStatus v).latch = s.latch := rfl
@[simp] theorem State.writeStatus_rstIn (v : Word) : (s.writeStatus v).rstIn = s.rstIn := rfl
@[simp] theorem State.writeStatus_host (v : Word) : (s.writeStatus v).host = s.host := rfl
@[simp] theorem State.writeStatus_reply (v : Word) : (s.writeStatus v).reply = s.reply := rfl
@[simp] theorem State.writeStatus_draws (v : Word) : (s.writeStatus v).draws = s.draws := rfl

@[simp] theorem State.withCommand_x (w : Word) : (s.withCommand w).x = s.x := rfl
@[simp] theorem State.withCommand_p (w : Word) : (s.withCommand w).p = s.p := rfl
@[simp] theorem State.withCommand_q (w : Word) : (s.withCommand w).q = s.q := rfl
@[simp] theorem State.withCommand_k (w : Word) : (s.withCommand w).k = s.k := rfl
@[simp] theorem State.withCommand_f (w : Word) : (s.withCommand w).f = s.f := rfl
@[simp] theorem State.withCommand_data (w : Word) : (s.withCommand w).data = s.data := rfl
@[simp] theorem State.withCommand_irqEn (w : Word) : (s.withCommand w).irqEn = s.irqEn := rfl
@[simp] theorem State.withCommand_done (w : Word) : (s.withCommand w).done = false := rfl
@[simp] theorem State.withCommand_err (w : Word) : (s.withCommand w).err = none := rfl
@[simp] theorem State.withCommand_ovr (w : Word) : (s.withCommand w).ovr = s.ovr := rfl
@[simp] theorem State.withCommand_initDone (w : Word) : (s.withCommand w).initDone = s.initDone := rfl
@[simp] theorem State.withCommand_result (w : Word) : (s.withCommand w).result = s.result := rfl
@[simp] theorem State.withCommand_errcmd (w : Word) : (s.withCommand w).errcmd = s.errcmd := rfl
@[simp] theorem State.withCommand_latch (w : Word) : (s.withCommand w).latch = some ⟨w, 0⟩ := rfl
@[simp] theorem State.withCommand_rstIn (w : Word) : (s.withCommand w).rstIn = false := rfl
@[simp] theorem State.withCommand_host (w : Word) : (s.withCommand w).host = s.host := rfl
@[simp] theorem State.withCommand_reply (w : Word) : (s.withCommand w).reply = s.reply := rfl
@[simp] theorem State.withCommand_draws (w : Word) : (s.withCommand w).draws = s.draws := rfl

@[simp] theorem State.applyReset_x : (s.applyReset).x = State.reset.x := rfl
@[simp] theorem State.applyReset_p : (s.applyReset).p = State.reset.p := rfl
@[simp] theorem State.applyReset_q : (s.applyReset).q = State.reset.q := rfl
@[simp] theorem State.applyReset_k : (s.applyReset).k = State.reset.k := rfl
@[simp] theorem State.applyReset_f : (s.applyReset).f = State.reset.f := rfl
@[simp] theorem State.applyReset_data : (s.applyReset).data = State.reset.data := rfl
@[simp] theorem State.applyReset_irqEn : (s.applyReset).irqEn = State.reset.irqEn := rfl
@[simp] theorem State.applyReset_done : (s.applyReset).done = State.reset.done := rfl
@[simp] theorem State.applyReset_err : (s.applyReset).err = State.reset.err := rfl
@[simp] theorem State.applyReset_ovr : (s.applyReset).ovr = State.reset.ovr := rfl
@[simp] theorem State.applyReset_initDone : (s.applyReset).initDone = State.reset.initDone := rfl
@[simp] theorem State.applyReset_result : (s.applyReset).result = State.reset.result := rfl
@[simp] theorem State.applyReset_errcmd : (s.applyReset).errcmd = State.reset.errcmd := rfl
@[simp] theorem State.applyReset_latch : (s.applyReset).latch = State.reset.latch := rfl
@[simp] theorem State.applyReset_rstIn : (s.applyReset).rstIn = s.rstIn := rfl
@[simp] theorem State.applyReset_host : (s.applyReset).host = s.host := rfl
@[simp] theorem State.applyReset_reply : (s.applyReset).reply = s.reply := rfl
@[simp] theorem State.applyReset_draws : (s.applyReset).draws = s.draws := rfl

@[simp] theorem State.reset_x : State.reset.x = Vector.replicate 16 none := rfl
@[simp] theorem State.reset_p : State.reset.p = Vector.replicate 4 none := rfl
@[simp] theorem State.reset_q : State.reset.q = Vector.replicate 4 none := rfl
@[simp] theorem State.reset_k : State.reset.k = Vector.replicate 4 none := rfl
@[simp] theorem State.reset_f : State.reset.f = none := rfl
@[simp] theorem State.reset_data : State.reset.data = [] := rfl
@[simp] theorem State.reset_irqEn : State.reset.irqEn = false := rfl
@[simp] theorem State.reset_done : State.reset.done = false := rfl
@[simp] theorem State.reset_err : State.reset.err = none := rfl
@[simp] theorem State.reset_ovr : State.reset.ovr = false := rfl
@[simp] theorem State.reset_initDone : State.reset.initDone = false := rfl
@[simp] theorem State.reset_result : State.reset.result = false := rfl
@[simp] theorem State.reset_errcmd : State.reset.errcmd = 0#32 := rfl
@[simp] theorem State.reset_latch : State.reset.latch = none := rfl
@[simp] theorem State.reset_rstIn : State.reset.rstIn = false := rfl
@[simp] theorem State.reset_host : State.reset.host = [] := rfl
@[simp] theorem State.reset_reply : State.reset.reply = .none := rfl
@[simp] theorem State.reset_draws : State.reset.draws = 0 := rfl

/-! A clock period of the latency touches LATCH's count alone. -/

@[simp] theorem State.tick_x : s.tick.x = s.x := by unfold State.tick; cases s.latch <;> rfl
@[simp] theorem State.tick_p : s.tick.p = s.p := by unfold State.tick; cases s.latch <;> rfl
@[simp] theorem State.tick_q : s.tick.q = s.q := by unfold State.tick; cases s.latch <;> rfl
@[simp] theorem State.tick_k : s.tick.k = s.k := by unfold State.tick; cases s.latch <;> rfl
@[simp] theorem State.tick_f : s.tick.f = s.f := by unfold State.tick; cases s.latch <;> rfl
@[simp] theorem State.tick_data : s.tick.data = s.data := by unfold State.tick; cases s.latch <;> rfl
@[simp] theorem State.tick_irqEn : s.tick.irqEn = s.irqEn := by unfold State.tick; cases s.latch <;> rfl
@[simp] theorem State.tick_done : s.tick.done = s.done := by unfold State.tick; cases s.latch <;> rfl
@[simp] theorem State.tick_err : s.tick.err = s.err := by unfold State.tick; cases s.latch <;> rfl
@[simp] theorem State.tick_ovr : s.tick.ovr = s.ovr := by unfold State.tick; cases s.latch <;> rfl
@[simp] theorem State.tick_initDone : s.tick.initDone = s.initDone := by unfold State.tick; cases s.latch <;> rfl
@[simp] theorem State.tick_result : s.tick.result = s.result := by unfold State.tick; cases s.latch <;> rfl
@[simp] theorem State.tick_errcmd : s.tick.errcmd = s.errcmd := by unfold State.tick; cases s.latch <;> rfl
theorem State.tick_latch : s.tick.latch = s.latch.map fun l => ⟨l.word, l.wait - 1⟩ := by
  unfold State.tick; cases h : s.latch <;> simp [h]
@[simp] theorem State.tick_rstIn : s.tick.rstIn = s.rstIn := by unfold State.tick; cases s.latch <;> rfl
@[simp] theorem State.tick_host : s.tick.host = s.host := by unfold State.tick; cases s.latch <;> rfl
@[simp] theorem State.tick_reply : s.tick.reply = s.reply := by unfold State.tick; cases s.latch <;> rfl
@[simp] theorem State.tick_draws : s.tick.draws = s.draws := by unfold State.tick; cases s.latch <;> rfl
@[simp] theorem State.tick_busy : s.tick.busy = s.busy := by simp [State.busy, State.tick_latch]

end Sys2Proof.Machine
end

