-- ==== Sys2Proof/Laws/Ops.lean ====
section
/-! SUPPORT. One lemma per shared operation, saying what it can do: register reads and writes, checks, and the end of a
command. -/

namespace Sys2Proof.Machine

/-! ## Checks and their sequence -/

@[simp] theorem ok_bind {α β : Type} (v : α) (g : α → Except ErrorCode β) : ((.ok v : Except ErrorCode α) >>= g) = g v := rfl

@[simp] theorem error_bind {α β : Type} (c : ErrorCode) (g : α → Except ErrorCode β) :
    ((.error c : Except ErrorCode α) >>= g) = .error c := rfl

/-- A sequence of checks succeeds when its first part gives a value and the rest succeeds on it. -/
theorem bind_eq_ok {α β : Type} {r : Except ErrorCode α} {g : α → Except ErrorCode β} {v : β} :
    (r >>= g) = .ok v ↔ ∃ a, r = .ok a ∧ g a = .ok v := by
  cases r <;> simp

@[simp] theorem require_true (c : ErrorCode) : require true c = .ok () := rfl
@[simp] theorem require_false (c : ErrorCode) : require false c = .error c := rfl

theorem require_eq_ok {b : Bool} {c : ErrorCode} {v : Unit} : require b c = .ok v ↔ b = true := by
  cases b <;> simp

theorem gate_eq_ok {s : State} {legal : Bool} {v : Unit} : s.gate legal = .ok v ↔ legal = true ∧ s.initDone = true := by
  unfold State.gate
  cases legal <;> cases s.initDone <;> simp

theorem gate_of_ready {s : State} {legal : Bool} (hl : legal = true) (hi : s.initDone = true) : s.gate legal = .ok () :=
  gate_eq_ok.mpr ⟨hl, hi⟩

theorem gate_of_illegal {s : State} {legal : Bool} (hl : legal = false) : s.gate legal = .error .illegal := by
  simp [State.gate, hl]

theorem gate_of_notInit {s : State} {legal : Bool} (hl : legal = true) (hi : s.initDone = false) :
    s.gate legal = .error .notInit := by
  simp [State.gate, hl, hi]

/-! ## Register files -/

theorem fileRead_eq_ok {α : Type} {n : Nat} {file : Vector (Option α) n} {i : RegIx} {v : α} :
    fileRead file i = .ok v ↔ file[i.toNat]? = some (some v) := by
  unfold fileRead
  split <;> simp_all

theorem fileRead_eq_unwritten {α : Type} {n : Nat} {file : Vector (Option α) n} {i : RegIx} :
    fileRead file i = .error .unwritten ↔ file[i.toNat]? = some none := by
  unfold fileRead
  split <;> simp_all

/-- What reading a register file can answer, for an index inside the file. -/
theorem fileRead_cases {α : Type} {n : Nat} (file : Vector (Option α) n) {i : RegIx} (h : i.toNat < n) :
    (∃ v, fileRead file i = .ok v ∧ file[i.toNat]? = some (some v)) ∨
      (fileRead file i = .error .unwritten ∧ file[i.toNat]? = some none) := by
  have hs : file[i.toNat]? = some file[i.toNat] := Vector.getElem?_eq_getElem h
  cases hv : file[i.toNat] with
  | none => exact .inr ⟨fileRead_eq_unwritten.mpr (by rw [hs, hv]), by rw [hs, hv]⟩
  | some v => exact .inl ⟨v, fileRead_eq_ok.mpr (by rw [hs, hv]), by rw [hs, hv]⟩

/-- The written entry holds the value. -/
theorem fileWrite_same {α : Type} {n : Nat} (file : Vector (Option α) n) {i : RegIx} (v : α) (h : i.toNat < n) :
    (fileWrite file i v)[i.toNat]? = some (some v) := by
  simp [fileWrite, h]

/-- Every other entry is unchanged. -/
theorem fileWrite_other {α : Type} {n : Nat} (file : Vector (Option α) n) {i : RegIx} {j : Nat} (v : α) (h : j ≠ i.toNat) :
    (fileWrite file i v)[j]? = file[j]? := by
  simp [fileWrite, Ne.symm h]

theorem fileWrite_other_ix {α : Type} {n : Nat} (file : Vector (Option α) n) {i j : RegIx} (v : α) (h : j ≠ i) :
    (fileWrite file i v)[j.toNat]? = file[j.toNat]? :=
  fileWrite_other file v fun hj => h (BitVec.eq_of_toNat_eq hj)

theorem mem_fileWrite {α : Type} {n : Nat} {file : Vector (Option α) n} {i : RegIx} {v : α} {e : Option α}
    (h : e ∈ (fileWrite file i v).toList) : e = some v ∨ e ∈ file.toList := by
  simp only [fileWrite, Vector.toList_setIfInBounds] at h
  exact (List.mem_or_eq_of_mem_set h).symm

/-! ## The end of a command -/

@[simp] theorem conclude_ok (s t : State) : s.conclude (.ok t) = .next t.complete := rfl
@[simp] theorem conclude_error (s : State) (c : ErrorCode) : s.conclude (.error c) = .next (s.fail c) := rfl

/-- A command always answers a next state: its effect completed, or the error entry. -/
theorem conclude_eq_next {s t : State} {r : Except ErrorCode State} :
    s.conclude r = .next t ↔ (∃ e, r = .ok e ∧ t = e.complete) ∨ (∃ c, r = .error c ∧ t = s.fail c) := by
  cases r <;> simp [eq_comm]

theorem conclude_next (s : State) (r : Except ErrorCode State) : ∃ t, s.conclude r = .next t := by
  cases r
  · exact ⟨_, rfl⟩
  · exact ⟨_, rfl⟩

theorem conclude_ne_fault (s : State) (r : Except ErrorCode State) (c : Fault) : s.conclude r ≠ .fault c := by
  cases r <;> simp

theorem conclude_ne_refused (s : State) (r : Except ErrorCode State) (c : Refusal) : s.conclude r ≠ .refused c := by
  cases r <;> simp

theorem latchedWord_of_latch {s : State} {l : Pending} (h : s.latch = some l) : s.latchedWord = l.word := by
  simp [State.latchedWord, h]

@[simp] theorem complete_busy (s : State) : s.complete.busy = false := rfl
@[simp] theorem fail_busy (s : State) (c : ErrorCode) : (s.fail c).busy = false := rfl

/-! ## Operands from DATA -/

theorem loadFp_eq_ok {m : Memory} {off : Nat} {v : Fp} : loadFp m off = .ok v ↔ m.readNat off 32 = v.val := by
  unfold loadFp
  dsimp only
  split
  · next h =>
    rw [Except.ok.injEq]
    exact ⟨fun he => by rw [← he], fun he => Fin.ext he⟩
  · next h =>
    simp only [reduceCtorEq, false_iff]
    intro he
    exact h (he ▸ v.isLt)

theorem loadFp_eq_error {m : Memory} {off : Nat} {c : ErrorCode} :
    loadFp m off = .error c ↔ c = .range ∧ Config.q ≤ m.readNat off 32 := by
  unfold loadFp
  dsimp only
  split
  · next h => simp only [reduceCtorEq, false_iff, not_and, Nat.not_le]; intro _; exact h
  · next h => simp only [Except.error.injEq]; constructor
              · intro he; exact ⟨he.symm, Nat.le_of_not_lt h⟩
              · intro he; exact he.1.symm

@[simp] theorem limbs_length (x : Fp12) : x.limbs.length = 12 := rfl

@[simp] theorem limbs_ofLimbs (l0 l1 l2 l3 l4 l5 l6 l7 l8 l9 l10 l11 : Fp) :
    (Fp12.ofLimbs l0 l1 l2 l3 l4 l5 l6 l7 l8 l9 l10 l11).limbs = [l0, l1, l2, l3, l4, l5, l6, l7, l8, l9, l10, l11] := rfl

/-- Two Fp12 values are equal when all twelve limbs are (40_tower.md R155). -/
theorem Fp12.ext_limbs {x y : Fp12} (h : x.limbs = y.limbs) : x = y := by
  obtain ⟨⟨⟨x3, x2⟩, ⟨x1, x0⟩⟩, ⟨⟨x7, x6⟩, ⟨x5, x4⟩⟩, ⟨⟨x11, x10⟩, ⟨x9, x8⟩⟩⟩ := x
  obtain ⟨⟨⟨y3, y2⟩, ⟨y1, y0⟩⟩, ⟨⟨y7, y6⟩, ⟨y5, y4⟩⟩, ⟨⟨y11, y10⟩, ⟨y9, y8⟩⟩⟩ := y
  simp only [Fp12.limbs, List.cons.injEq] at h
  obtain ⟨rfl, rfl, rfl, rfl, rfl, rfl, rfl, rfl, rfl, rfl, rfl, rfl, -⟩ := h
  rfl

theorem wf_storeFp12 {m : Memory} (hm : m.wf) (x : Fp12) : (storeFp12 m x).wf := Memory.wf_writeLimbs hm _ _

theorem inData_storeFp12 {m : Memory} (hm : m.inData) (x : Fp12) : (storeFp12 m x).inData :=
  Memory.inData_writeLimbs hm (by simp [Config.dataSize])

theorem wf_storeG2 {m : Memory} (hm : m.wf) (pt : G2Point) : (storeG2 m pt).wf := by
  unfold storeG2
  split
  · exact Memory.wf_writeNat hm _ _ _
  · exact Memory.wf_writeLimbs hm _ _

theorem inData_storeG2 {m : Memory} (hm : m.inData) (pt : G2Point) : (storeG2 m pt).inData := by
  unfold storeG2
  split
  · exact Memory.inData_writeNat hm (by decide) _
  · exact Memory.inData_writeLimbs hm (by simp [Config.dataSize])

theorem read_storeFp12_other {m : Memory} {x : Fp12} {o : Nat} (h : 384 ≤ o) : (storeFp12 m x).read o = m.read o :=
  Memory.read_writeLimbs_other (.inr (by simpa using h))

theorem read_storeG2_other {m : Memory} {pt : G2Point} {o : Nat} (h : 128 ≤ o) : (storeG2 m pt).read o = m.read o := by
  unfold storeG2
  split
  · exact Memory.read_writeNat_other _ (.inr (by omega))
  · exact Memory.read_writeLimbs_other (.inr (by simpa using h))

end Sys2Proof.Machine
end

