-- ==== Sys2Proof/Laws/Bus.lean ====
section
/-! SUPPORT. The host's accesses: the window, and what a step does with the host's next action. -/

namespace Sys2Proof.Machine

@[simp] theorem windowOffset_base {off : Nat} (h : off < 4096) : windowOffset (Config.engineBase + off) = some off := by
  unfold windowOffset
  rw [if_pos ⟨by omega, by simp [Config.windowSize]; omega⟩]
  simp

theorem windowOffset_eq_none {addr : Nat} : windowOffset addr = none ↔ ¬ inWindow addr := by
  unfold windowOffset inWindow
  split <;> simp_all [Config.windowSize]

/-- An aligned word access in the window reaches the register it names. -/
theorem hostAccess_aligned {s : State} {off : Nat} (go : WindowReg → State) (hr : s.rstIn = false) (ho : off < 4096)
    (ha : off % 4 = 0) : hostAccess s (Config.engineBase + off) 4 go = .next (go (windowReg off)) := by
  unfold hostAccess
  rw [windowOffset_base ho]
  simp [hr, ha]

/-- Any other access in the window is a bus error. -/
theorem hostAccess_busError {s : State} {off size : Nat} (go : WindowReg → State) (hr : s.rstIn = false) (ho : off < 4096)
    (ha : size ≠ 4 ∨ off % 4 ≠ 0) :
    hostAccess s (Config.engineBase + off) size go = .next { s with reply := .busError } := by
  unfold hostAccess
  rw [windowOffset_base ho]
  have : ¬ (size = 4 ∧ off % 4 = 0) := by omega
  simp [hr, this]

/-- The three ways a host access can end. -/
theorem hostAccess_cases (s : State) (addr size : Nat) (go : WindowReg → State) :
    (hostAccess s addr size go = .refused .accessInReset ∧ s.rstIn = true) ∨
    (hostAccess s addr size go = .fault .outsideWindow ∧ s.rstIn = false ∧ ¬ inWindow addr) ∨
    (s.rstIn = false ∧ inWindow addr ∧ ∃ off, off % 4 = 0 ∧ hostAccess s addr size go = .next (go (windowReg off))) ∨
    (s.rstIn = false ∧ inWindow addr ∧ hostAccess s addr size go = .next { s with reply := .busError }) := by
  unfold hostAccess
  cases hr : s.rstIn
  · cases hw : windowOffset addr with
    | none => exact .inr (.inl (by simp [windowOffset_eq_none.mp hw]))
    | some off =>
      have hin : inWindow addr := by
        by_contra hc
        rw [windowOffset_eq_none.mpr hc] at hw
        cases hw
      by_cases hc : size = 4 ∧ off % 4 = 0
      · exact .inr (.inr (.inl ⟨rfl, hin, off, hc.2, by simp [hc]⟩))
      · exact .inr (.inr (.inr ⟨rfl, hin, by simp [hc]⟩))
  · exact .inl (by simp)

/-- The window's DATA words are the aligned words of D[0]–D[383]. -/
theorem windowReg_data {off o : Nat} (h : windowReg off = .dataWord o) : off = 0x100 + o ∧ o < 384 := by
  unfold windowReg at h
  split_ifs at h with _ _ _ _ _ h6
  have := WindowReg.dataWord.inj h
  omega

@[simp] theorem windowReg_id : windowReg 0x000 = .id := rfl
@[simp] theorem windowReg_ctrl : windowReg 0x004 = .ctrl := rfl
@[simp] theorem windowReg_status : windowReg 0x008 = .status := rfl
@[simp] theorem windowReg_cmd : windowReg 0x00C = .cmd := rfl
@[simp] theorem windowReg_errcmd : windowReg 0x010 = .errcmd := rfl

theorem windowReg_dataWord {k : Nat} (h : k < 96) : windowReg (0x100 + 4 * k) = .dataWord (4 * k) := by
  unfold windowReg
  rw [if_neg (by omega), if_neg (by omega), if_neg (by omega), if_neg (by omega), if_neg (by omega),
    if_pos (by omega), show 0x100 + 4 * k - 0x100 = 4 * k by omega]

/-! ## Which agent a step belongs to -/

theorem step_of_due {s : State} {w : Word} (h : s.latch = some ⟨w, 0⟩) : step s = performWord w s := by
  simp [step, State.engineDue, engineStep, h]

theorem step_of_waiting {s : State} {w : Word} {n : Nat} (h : s.latch = some ⟨w, n + 1⟩) : step s = hostStep s.tick := by
  simp [step, State.engineDue, h]

theorem step_of_idle {s : State} (h : s.latch = none) : step s = hostStep s := by
  simp [step, State.engineDue, State.tick, h]

/-- A run whose first step goes on is the run from the state it goes on to. -/
theorem run_succ {M : Host.Core} {k : Nat} {s s' : M.State} (h : M.step s = .next s') : M.run (k + 1) s = M.run k s' := by
  simp [Host.Core.run, h]

theorem hostStep_cons {s : State} {act : HostAction} {rest : List HostAction} (h : s.host = act :: rest) :
    hostStep s = hostAct { s with host := rest } act := by
  simp [hostStep, h]

theorem hostStep_nil {s : State} (h : s.host = []) : hostStep s = .next s := by
  simp [hostStep, h]

end Sys2Proof.Machine
end

