-- ==== Sys2Proof/Laws/Encoding.lean ====
section
/-! SUPPORT. The fields of a packed command word, and a word from its fields (30_encoding.md R120, R127). -/

namespace Sys2Proof

variable (op : Opcode) (d a b : RegIx) (i : Imm)

@[simp] theorem opField_packWord : Word.opField (packWord op d a b i) = op := by
  unfold Word.opField packWord
  apply BitVec.eq_of_getLsbD_eq
  intro n hn
  simp only [BitVec.getLsbD_extractLsb', BitVec.getLsbD_append]
  rw [if_pos (by omega), if_pos (by omega), if_pos (by omega), if_pos (by omega), if_pos (by omega)]
  simp [hn]

@[simp] theorem dField_packWord : Word.dField (packWord op d a b i) = d := by
  unfold Word.dField packWord
  apply BitVec.eq_of_getLsbD_eq
  intro n hn
  simp only [BitVec.getLsbD_extractLsb', BitVec.getLsbD_append]
  rw [if_pos (by omega), if_pos (by omega), if_pos (by omega), if_pos (by omega), if_neg (by omega)]
  simp [hn]

@[simp] theorem aField_packWord : Word.aField (packWord op d a b i) = a := by
  unfold Word.aField packWord
  apply BitVec.eq_of_getLsbD_eq
  intro n hn
  simp only [BitVec.getLsbD_extractLsb', BitVec.getLsbD_append]
  rw [if_pos (by omega), if_pos (by omega), if_pos (by omega), if_neg (by omega)]
  simp [hn]

@[simp] theorem bField_packWord : Word.bField (packWord op d a b i) = b := by
  unfold Word.bField packWord
  apply BitVec.eq_of_getLsbD_eq
  intro n hn
  simp only [BitVec.getLsbD_extractLsb', BitVec.getLsbD_append]
  rw [if_pos (by omega), if_pos (by omega), if_neg (by omega)]
  simp [hn]

@[simp] theorem iField_packWord : Word.iField (packWord op d a b i) = i := by
  unfold Word.iField packWord
  apply BitVec.eq_of_getLsbD_eq
  intro n hn
  simp only [BitVec.getLsbD_extractLsb', BitVec.getLsbD_append]
  rw [if_pos (by omega), if_neg (by omega)]
  simp [hn]

@[simp] theorem rsvField_packWord : Word.rsvField (packWord op d a b i) = 0#8 := by
  unfold Word.rsvField packWord
  apply BitVec.eq_of_getLsbD_eq
  intro n hn
  simp only [BitVec.getLsbD_extractLsb', BitVec.getLsbD_append]
  rw [if_neg (by omega)]
  simp

/-- A word with reserved byte 0 is the pack of its fields. -/
theorem packWord_fields (w : Word) (h : w.rsvField = 0#8) :
    packWord w.opField w.dField w.aField w.bField w.iField = w := by
  have hr : ∀ n, n < 8 → w.getLsbD (24 + n) = false := by
    intro n hn
    have := congrArg (fun v => v.getLsbD n) h
    simpa [Word.rsvField, BitVec.getLsbD_extractLsb', hn] using this
  unfold packWord Word.opField Word.dField Word.aField Word.bField Word.iField
  apply BitVec.eq_of_getLsbD_eq
  intro n hn
  simp only [BitVec.getLsbD_append, BitVec.getLsbD_extractLsb']
  split_ifs
  · simp [show n < 8 by omega]
  · simp [show n - 8 < 4 by omega, show 8 + (n - 8) = n by omega]
  · simp [show n - 12 < 4 by omega, show 12 + (n - 12) = n by omega]
  · simp [show n - 16 < 4 by omega, show 16 + (n - 16) = n by omega]
  · simp [show n - 20 < 4 by omega, show 20 + (n - 20) = n by omega]
  · have := hr (n - 24) (by omega)
    rw [show 24 + (n - 24) = n by omega] at this
    simp [this]

theorem smallIndex_iff (r : RegIx) : smallIndex r = RegIx.inSmallFile r := by revert r; decide
theorem tagsImm_iff (i : Imm) : tagsImm i = Imm.isTags i := by revert i; decide
theorem bitImm_iff (i : Imm) : bitImm i = Imm.isBit i := by revert i; decide

@[simp] theorem unused_zero : unused 0#4 = true := rfl
theorem unused_iff (f : BitVec 4) : unused f = true ↔ f = 0#4 := by simp [unused]

theorem legalIf_eq_some {ok : Bool} {i j : Instr} : legalIf ok i = some j ↔ ok = true ∧ i = j := by
  unfold legalIf
  cases ok <;> simp

end Sys2Proof
end

