-- ==== Sys2Proof/Laws/Commands.lean ====
section
/-! SUPPORT. The inversion of a command, said once for all twenty-four: what its effect is when no check fails, and that a command
is either that effect completed or the error entry. Later proofs cite it and unfold no meaning. -/

namespace Sys2Proof.Machine

/-- `e` is `s` with the effect of command `i`, every check of which passes in `s`. -/
def Effect (s e : State) : Instr → Prop
  | .nop => e = s
  | .init => s.initDone = false ∧ e = { s with f := some frobeniusConstant, initDone := true }
  | .ldx d i => s.initDone = true ∧ i.isTags = true ∧ ∃ v, loadFp12 s.data = .ok v ∧ e = s.writeX d (Tagged.ofImm v i)
  | .stx a => s.initDone = true ∧ ∃ x, s.readX a = .ok x ∧ e = s.setData (storeFp12 s.data x.val)
  | .mov d a => s.initDone = true ∧ ∃ x, s.readX a = .ok x ∧ e = s.writeX d (Tagged.keep x.val x)
  | .set1 d => s.initDone = true ∧ e = s.writeX d (Tagged.unitary Fp12.one)
  | .tag d i => s.initDone = true ∧ i.isTags = true ∧ ∃ x, s.readX d = .ok x ∧ e = s.writeX d (Tagged.ofImm x.val i)
  | .eq a b => s.initDone = true ∧ ∃ x y, s.readX a = .ok x ∧ s.readX b = .ok y ∧ e = s.setResult (x.val = y.val)
  | .ldk d i => s.initDone = true ∧ d.inSmallFile = true ∧ i.isBit = true ∧ e = s.writeK d (loadExponent s.data i)
  | .mul d a b => s.initDone = true ∧ ∃ x y, s.readX a = .ok x ∧ s.readX b = .ok y ∧
      e = s.writeX d (Tagged.combine (x.val.mul y.val) x y)
  | .sqr d a => s.initDone = true ∧ ∃ x, s.readX a = .ok x ∧ e = s.writeX d (Tagged.keep (sqrValue x.val x.u) x)
  | .conj d a => s.initDone = true ∧ ∃ x, s.readX a = .ok x ∧ e = s.writeX d (Tagged.keep x.val.conj x)
  | .inv d a => s.initDone = true ∧ ∃ x r, s.readX a = .ok x ∧ invValue x.val x.u = .ok r ∧
      e = s.writeX d (Tagged.keep r x)
  | .div d a b => s.initDone = true ∧ ∃ x y r, s.readX a = .ok x ∧ s.readX b = .ok y ∧ invValue y.val y.u = .ok r ∧
      e = s.writeX d (Tagged.combine (x.val.mul r) x y)
  | .frob d a i => s.initDone = true ∧ ∃ x f, s.readX a = .ok x ∧ s.f = some f ∧
      e = s.writeX d (Tagged.keep (x.val.frob f i.toNat) x)
  | .pow d a b => s.initDone = true ∧ b.inSmallFile = true ∧ ∃ x k r, s.readX a = .ok x ∧ s.readK b = .ok k ∧
      powValue x.val x.u k.toInt = .ok r ∧ e = s.writeX d (Tagged.keep r x)
  | .ldp d i => s.initDone = true ∧ d.inSmallFile = true ∧ i.isBit = true ∧ ∃ pt, loadG2OrInf s.data i = .ok pt ∧
      e = s.writeP d pt
  | .stp a => s.initDone = true ∧ a.inSmallFile = true ∧ ∃ pt, s.readP a = .ok pt ∧
      e = (s.setData (storeG2 s.data pt)).setResult pt.inf
  | .ldq d => s.initDone = true ∧ d.inSmallFile = true ∧ ∃ pt, loadG1 s.data = .ok pt ∧ e = s.writeQ d pt
  | .frobp d a => s.initDone = true ∧ d.inSmallFile = true ∧ a.inSmallFile = true ∧ ∃ pt f, s.readP a = .ok pt ∧
      s.f = some f ∧ e = s.writeP d (frobPoint f pt)
  | .miller d a b => s.initDone = true ∧ a.inSmallFile = true ∧ b.inSmallFile = true ∧ ∃ pt g f v, s.readP a = .ok pt ∧
      s.readQ b = .ok g ∧ s.f = some f ∧ millerValue f pt g = .ok v ∧ e = s.writeX d (Tagged.miller v)
  | .fexp d a => s.initDone = true ∧ ∃ x, s.readX a = .ok x ∧ x.val ≠ Fp12.zero ∧
      e = s.writeX d (Tagged.unitary (fexpValue x.val))
  | .pair d a b => s.initDone = true ∧ a.inSmallFile = true ∧ b.inSmallFile = true ∧ ∃ pt g f v, s.readP a = .ok pt ∧
      s.readQ b = .ok g ∧ s.f = some f ∧ pairValue f pt g = .ok v ∧ e = s.writeX d (Tagged.unitary v)
  | .member a => s.initDone = true ∧ ∃ x f, s.readX a = .ok x ∧ s.f = some f ∧ e = s.setResult (memberValue f x.val x.u)

theorem readF_eq_ok {s : State} {v : Fp2} : s.readF = .ok v ↔ s.f = some v := by
  unfold State.readF
  cases s.f <;> simp

/-- The checks and effect of a command, before its end: one lemma for the shape all meanings have. -/
theorem exec_conclude (i : Instr) (s : State) :
    ∃ r : Except ErrorCode State, exec i s = s.conclude r ∧ ∀ e, r = .ok e ↔ Effect s e i := by
  cases i <;> simp only [exec, execNop, execInit, execLdx, execStx, execMov, execSet1, execTag, execEq, execLdk, execMul, execSqr, execConj, execInv, execDiv, execFrob, execPow, execLdp, execStp, execLdq, execFrobp, execMiller, execFexp, execPair, execMember]
  all_goals
    refine ⟨_, rfl, fun e => ?_⟩
    simp only [bind_eq_ok, gate_eq_ok, require_eq_ok, readF_eq_ok, smallIndex_iff, tagsImm_iff, bitImm_iff,
      Bool.and_eq_true, Except.ok.injEq, decide_eq_true_eq, Bool.not_eq_true']
    unfold Effect
    grind

/-- A command always answers a next state: its effect completed, or the error entry. -/
theorem exec_cases {i : Instr} {s t : State} (h : exec i s = .next t) :
    (∃ e, Effect s e i ∧ t = e.complete) ∨ ∃ c, t = s.fail c := by
  obtain ⟨r, hr, hok⟩ := exec_conclude i s
  rw [hr, conclude_eq_next] at h
  obtain ⟨e, he, ht⟩ | ⟨c, -, ht⟩ := h
  · exact .inl ⟨e, (hok e).mp he, ht⟩
  · exact .inr ⟨c, ht⟩

/-- A command whose checks pass completes with its effect. -/
theorem exec_of_effect {i : Instr} {s e : State} (h : Effect s e i) : exec i s = .next e.complete := by
  obtain ⟨r, hr, hok⟩ := exec_conclude i s
  rw [hr, (hok e).mpr h, conclude_ok]

theorem exec_next (i : Instr) (s : State) : ∃ t, exec i s = .next t := by
  obtain ⟨r, hr, -⟩ := exec_conclude i s
  rw [hr]
  exact conclude_next s r

end Sys2Proof.Machine
end

