-- ==== Sys2Proof/Laws/Tower.lean ====
section
/-! SUPPORT. What square-and-multiply computes, said once for any square and product. -/

namespace Sys2Proof.Machine

theorem downFrom_succ (h : Nat) : downFrom (h + 1) = h :: downFrom h := by
  simp [downFrom, List.range_succ]

@[simp] theorem downFrom_zero : downFrom 0 = [] := rfl

theorem shiftRight_succ_bit (e h : Nat) : e >>> h = 2 * (e >>> (h + 1)) + (if e.testBit h then 1 else 0) := by
  rw [Nat.shiftRight_succ, Nat.testBit_eq_decide_div_mod_eq, Nat.shiftRight_eq_div_pow]
  simp only [decide_eq_true_eq]
  split <;> omega

/-- The loop keeps any relation between the accumulator and the exponent bits read so far that a square doubles and a product by
the base increments. -/
theorem squareMultiply_loop {α : Type} {sqr : α → α} {mul : α → α → α} {base : α} {e : Nat} (P : α → Nat → Prop)
    (hs : ∀ r n, P r n → P (sqr r) (2 * n)) (hm : ∀ r n, P r n → P (mul r base) (n + 1)) (h : Nat) :
    ∀ r, P r (e >>> h) → P ((downFrom h).foldl (squareMultiplyStep sqr mul base e) r) e := by
  induction h with
  | zero => intro r hr; simpa using hr
  | succ h ih =>
    intro r hr
    rw [downFrom_succ, List.foldl_cons]
    refine ih _ ?_
    rw [shiftRight_succ_bit e h, squareMultiplyStep]
    split
    · exact hm _ _ (hs _ _ hr)
    · exact hs _ _ hr

/-- Square-and-multiply reaches exponent `e`, for any relation that holds of the base at 1, that a square doubles and a product by
the base increments. -/
theorem squareMultiply_induct {α : Type} {sqr : α → α} {mul : α → α → α} {base : α} {e : Nat} (he : e ≠ 0)
    (P : α → Nat → Prop) (h1 : P base 1) (hs : ∀ r n, P r n → P (sqr r) (2 * n))
    (hm : ∀ r n, P r n → P (mul r base) (n + 1)) : P (squareMultiply sqr mul base e) e := by
  refine squareMultiply_loop P hs hm _ _ ?_
  have hlog : e >>> e.log2 = 1 := by
    rw [Nat.shiftRight_eq_div_pow]
    have h1 := Nat.log2_self_le he
    have h2 : e < 2 ^ (e.log2 + 1) := Nat.lt_log2_self
    rw [Nat.pow_succ] at h2
    exact Nat.div_eq_of_lt_le (by omega) (by omega)
  simpa [bitlen, he, hlog] using h1

end Sys2Proof.Machine
end

