-- ==== Sys2Proof/Laws/Primes.lean ====
section
/-! SUPPORT. The field modulus q is prime, by Lucas certificates (00_scope.md R11). -/

namespace Sys2Proof.Machine

/-- a^e mod p by square-and-multiply. -/
def powMod (p a e : Nat) : Nat := squareMultiply (fun r => r * r % p) (fun r s => r * s % p) (a % p) e

theorem powMod_eq (p a : Nat) {e : Nat} (he : e ≠ 0) : powMod p a e = a ^ e % p := by
  refine squareMultiply_induct he (fun r n => r = a ^ n % p) (by simp) ?_ ?_
  · rintro r n rfl
    rw [← Nat.mul_mod, ← Nat.pow_add, Nat.two_mul]
  · rintro r n rfl
    rw [← Nat.mul_mod, Nat.pow_succ]

/-- Lucas's test with the factors of p − 1 listed. -/
theorem prime_of_lucas (p a : Nat) (l : List Nat) (hp : 1 < p) (hl : ∀ r ∈ l, r.Prime) (hprod : l.prod = p - 1)
    (h1 : powMod p a (p - 1) = 1) (h2 : ∀ r ∈ l, powMod p a ((p - 1) / r) ≠ 1) : p.Prime := by
  have key : ∀ k : Nat, k ≠ 0 → ((a : ZMod p) ^ k = 1 ↔ powMod p a k = 1) := by
    intro k hk
    have := ZMod.natCast_eq_natCast_iff' (a ^ k) 1 p
    rw [Nat.cast_pow, Nat.cast_one, Nat.mod_eq_of_lt hp] at this
    rw [this, powMod_eq p a hk]
  have hp1 : p - 1 ≠ 0 := by omega
  refine lucas_primality p (a : ZMod p) ((key _ hp1).mpr h1) fun r hr hd => ?_
  have hne : (p - 1) / r ≠ 0 := (Nat.div_pos (Nat.le_of_dvd (by omega) hd) hr.pos).ne'
  rw [← hprod] at hd
  obtain ⟨s, hs, hrs⟩ := (Prime.dvd_prod_iff hr.prime).mp hd
  obtain rfl : r = s := (Nat.prime_dvd_prime_iff_eq hr (hl s hs)).mp hrs
  exact fun he => h2 r hs ((key _ hne).mp he)

theorem prime_1434514811 : Nat.Prime 1434514811 :=
  prime_of_lucas 1434514811 2 [2, 5, 8179, 17539] (by decide +kernel)
    (by simp only [List.forall_mem_cons, List.not_mem_nil, false_implies, implies_true, and_true]
        exact ⟨by norm_num, by norm_num, by norm_num, by norm_num⟩)
    (by decide +kernel) (by decide +kernel) (by decide +kernel)

theorem prime_17214177733 : Nat.Prime 17214177733 :=
  prime_of_lucas 17214177733 2 [2, 2, 3, 1434514811] (by decide +kernel)
    (by simp only [List.forall_mem_cons, List.not_mem_nil, false_implies, implies_true, and_true]
        exact ⟨by norm_num, by norm_num, by norm_num, prime_1434514811⟩)
    (by decide +kernel) (by decide +kernel) (by decide +kernel)

theorem prime_1548931712415341 : Nat.Prime 1548931712415341 :=
  prime_of_lucas 1548931712415341 3 [2, 2, 5, 11, 409, 17214177733] (by decide +kernel)
    (by simp only [List.forall_mem_cons, List.not_mem_nil, false_implies, implies_true, and_true]
        exact ⟨by norm_num, by norm_num, by norm_num, by norm_num, by norm_num, prime_17214177733⟩)
    (by decide +kernel) (by decide +kernel) (by decide +kernel)

theorem prime_287008459 : Nat.Prime 287008459 :=
  prime_of_lucas 287008459 3 [2, 3, 11, 461, 9433] (by decide +kernel)
    (by simp only [List.forall_mem_cons, List.not_mem_nil, false_implies, implies_true, and_true]
        exact ⟨by norm_num, by norm_num, by norm_num, by norm_num, by norm_num⟩)
    (by decide +kernel) (by decide +kernel) (by decide +kernel)

theorem prime_1148033837 : Nat.Prime 1148033837 :=
  prime_of_lucas 1148033837 2 [2, 2, 287008459] (by decide +kernel)
    (by simp only [List.forall_mem_cons, List.not_mem_nil, false_implies, implies_true, and_true]
        exact ⟨by norm_num, by norm_num, prime_287008459⟩)
    (by decide +kernel) (by decide +kernel) (by decide +kernel)

theorem prime_163569827 : Nat.Prime 163569827 :=
  prime_of_lucas 163569827 2 [2, 7, 31, 376889] (by decide +kernel)
    (by simp only [List.forall_mem_cons, List.not_mem_nil, false_implies, implies_true, and_true]
        exact ⟨by norm_num, by norm_num, by norm_num, by norm_num⟩)
    (by decide +kernel) (by decide +kernel) (by decide +kernel)

theorem prime_2289977579 : Nat.Prime 2289977579 :=
  prime_of_lucas 2289977579 2 [2, 7, 163569827] (by decide +kernel)
    (by simp only [List.forall_mem_cons, List.not_mem_nil, false_implies, implies_true, and_true]
        exact ⟨by norm_num, by norm_num, prime_163569827⟩)
    (by decide +kernel) (by decide +kernel) (by decide +kernel)

theorem prime_11101811302993 : Nat.Prime 11101811302993 :=
  prime_of_lucas 11101811302993 5 [2, 2, 2, 2, 3, 101, 2289977579] (by decide +kernel)
    (by simp only [List.forall_mem_cons, List.not_mem_nil, false_implies, implies_true, and_true]
        exact ⟨by norm_num, by norm_num, by norm_num, by norm_num, by norm_num, by norm_num, prime_2289977579⟩)
    (by decide +kernel) (by decide +kernel) (by decide +kernel)

theorem prime_389917816583720147 : Nat.Prime 389917816583720147 :=
  prime_of_lucas 389917816583720147 2 [2, 17, 1033, 11101811302993] (by decide +kernel)
    (by simp only [List.forall_mem_cons, List.not_mem_nil, false_implies, implies_true, and_true]
        exact ⟨by norm_num, by norm_num, by norm_num, prime_11101811302993⟩)
    (by decide +kernel) (by decide +kernel) (by decide +kernel)

theorem prime_1182915037 : Nat.Prime 1182915037 :=
  prime_of_lucas 1182915037 2 [2, 2, 3, 3, 3, 43, 103, 2473] (by decide +kernel)
    (by simp only [List.forall_mem_cons, List.not_mem_nil, false_implies, implies_true, and_true]
        exact ⟨by norm_num, by norm_num, by norm_num, by norm_num, by norm_num, by norm_num, by norm_num, by norm_num⟩)
    (by decide +kernel) (by decide +kernel) (by decide +kernel)

theorem prime_4731660149 : Nat.Prime 4731660149 :=
  prime_of_lucas 4731660149 2 [2, 2, 1182915037] (by decide +kernel)
    (by simp only [List.forall_mem_cons, List.not_mem_nil, false_implies, implies_true, and_true]
        exact ⟨by norm_num, by norm_num, prime_1182915037⟩)
    (by decide +kernel) (by decide +kernel) (by decide +kernel)

theorem prime_26643987113801 : Nat.Prime 26643987113801 :=
  prime_of_lucas 26643987113801 3 [2, 2, 2, 5, 5, 7, 82067, 231901] (by decide +kernel)
    (by simp only [List.forall_mem_cons, List.not_mem_nil, false_implies, implies_true, and_true]
        exact ⟨by norm_num, by norm_num, by norm_num, by norm_num, by norm_num, by norm_num, by norm_num, by norm_num⟩)
    (by decide +kernel) (by decide +kernel) (by decide +kernel)

theorem prime_53287974227603 : Nat.Prime 53287974227603 :=
  prime_of_lucas 53287974227603 2 [2, 26643987113801] (by decide +kernel)
    (by simp only [List.forall_mem_cons, List.not_mem_nil, false_implies, implies_true, and_true]
        exact ⟨by norm_num, prime_26643987113801⟩)
    (by decide +kernel) (by decide +kernel) (by decide +kernel)

theorem prime_639455690731237 : Nat.Prime 639455690731237 :=
  prime_of_lucas 639455690731237 2 [2, 2, 3, 53287974227603] (by decide +kernel)
    (by simp only [List.forall_mem_cons, List.not_mem_nil, false_implies, implies_true, and_true]
        exact ⟨by norm_num, by norm_num, by norm_num, prime_53287974227603⟩)
    (by decide +kernel) (by decide +kernel) (by decide +kernel)

theorem prime_63945569073123701 : Nat.Prime 63945569073123701 :=
  prime_of_lucas 63945569073123701 2 [2, 2, 5, 5, 639455690731237] (by decide +kernel)
    (by simp only [List.forall_mem_cons, List.not_mem_nil, false_implies, implies_true, and_true]
        exact ⟨by norm_num, by norm_num, by norm_num, by norm_num, prime_639455690731237⟩)
    (by decide +kernel) (by decide +kernel) (by decide +kernel)

theorem prime_94401434677189000286356532089 : Nat.Prime 94401434677189000286356532089 :=
  prime_of_lucas 94401434677189000286356532089 11 [2, 2, 2, 3, 13, 4731660149, 63945569073123701] (by decide +kernel)
    (by simp only [List.forall_mem_cons, List.not_mem_nil, false_implies, implies_true, and_true]
        exact ⟨by norm_num, by norm_num, by norm_num, by norm_num, by norm_num, prime_4731660149, prime_63945569073123701⟩)
    (by decide +kernel) (by decide +kernel) (by decide +kernel)

/-- q is prime (00_scope.md R11). -/
theorem q_prime : Nat.Prime Config.q :=
  prime_of_lucas Config.q 2 [2, 2, 3, 7, 11, 29, 47, 1148033837, 1548931712415341, 389917816583720147, 94401434677189000286356532089] (by decide +kernel)
    (by simp only [List.forall_mem_cons, List.not_mem_nil, false_implies, implies_true, and_true]
        exact ⟨by norm_num, by norm_num, by norm_num, by norm_num, by norm_num, by norm_num, by norm_num, prime_1148033837, prime_1548931712415341, prime_389917816583720147, prime_94401434677189000286356532089⟩)
    (by decide +kernel) (by decide +kernel) (by decide +kernel)

end Sys2Proof.Machine
end

