-- ==== Sys2Proof/Laws/Fields.lean ====
section
/-! SUPPORT. The floors Fp, Fp2 and Fp4 of the tower as Mathlib's commutative rings, so that `ring` closes goals over them, and the
inverse of Fp (40_tower.md R150–R152). The ring definitions are no global rules: a proof takes one in with `letI`. -/

namespace Sys2Proof.Machine

open Fin.CommRing

/-! ## Fp -/

theorem fpNeZero : NeZero Config.q := ⟨by decide⟩

/-- Fp as a ring: the model's own operations of Fin q. -/
@[reducible] def fpRing : CommRing Fp :=
  letI := fpNeZero
  Fin.instCommRing Config.q

theorem Fp.zero_eq : Fp.zero = (letI := fpRing; 0) := rfl
theorem Fp.one_eq : Fp.one = (letI := fpRing; 1) := rfl

theorem Fp.neg_eq (x : Fp) : x.neg = (letI := fpRing; -x) := by
  let := fpRing
  exact zero_sub x

theorem Fp.inv_val (x : Fp) : x.inv.val = x.val ^ (Config.q - 2) % Config.q := by
  refine squareMultiply_induct (α := Fp) (e := Config.q - 2) (by decide) (fun r n => r.val = x.val ^ n % Config.q) ?_ ?_ ?_
  · simp [Nat.mod_eq_of_lt x.isLt]
  · intro r n hr
    rw [Fin.val_mul, hr, ← Nat.mul_mod, ← Nat.pow_add, Nat.two_mul]
  · intro r n hr
    rw [Fin.val_mul, hr, Nat.mod_mul_mod, Nat.pow_succ]

/-- The inverse of a nonzero field element (00_scope.md R11: q is prime). -/
theorem Fp.mul_inv {x : Fp} (h : x ≠ Fp.zero) : x * x.inv = Fp.one := by
  have hx : x.val ≠ 0 := fun he => h (Fin.ext he)
  have hc : Nat.Coprime x.val Config.q :=
    ((Nat.Prime.coprime_iff_not_dvd q_prime).mpr (Nat.not_dvd_of_pos_of_lt (Nat.pos_of_ne_zero hx) x.isLt)).symm
  apply Fin.ext
  rw [Fin.val_mul, Fp.inv_val, Nat.mul_mod_mod, ← Nat.pow_succ', show (Config.q - 2).succ = Nat.totient Config.q by
    rw [Nat.totient_prime q_prime]; decide]
  exact (Nat.ModEq.pow_totient hc).trans rfl

/-! ## Fp2 -/

theorem Fp2.ext {x y : Fp2} (h0 : x.x0 = y.x0) (h1 : x.x1 = y.x1) : x = y := by
  obtain ⟨_, _⟩ := x
  obtain ⟨_, _⟩ := y
  simp_all

/-- Fp2 as a ring: the model's own operations. -/
@[reducible] def fp2Ring : CommRing Fp2 :=
  letI := fpRing
  { add := Fp2.add
    zero := Fp2.zero
    neg := Fp2.neg
    sub := Fp2.sub
    mul := Fp2.mul
    one := Fp2.one
    nsmul := @nsmulRec Fp2 ⟨Fp2.zero⟩ ⟨Fp2.add⟩
    zsmul := @zsmulRec Fp2 ⟨Fp2.zero⟩ ⟨Fp2.add⟩ ⟨Fp2.neg⟩ (@nsmulRec Fp2 ⟨Fp2.zero⟩ ⟨Fp2.add⟩)
    add_assoc := fun x y z => Fp2.ext (add_assoc _ _ _) (add_assoc _ _ _)
    zero_add := fun x => Fp2.ext (zero_add _) (zero_add _)
    add_zero := fun x => Fp2.ext (add_zero _) (add_zero _)
    add_comm := fun x y => Fp2.ext (add_comm _ _) (add_comm _ _)
    neg_add_cancel := fun x => Fp2.ext
      (by change x.x0.neg + x.x0 = 0; rw [Fp.neg_eq]; exact neg_add_cancel _)
      (by change x.x1.neg + x.x1 = 0; rw [Fp.neg_eq]; exact neg_add_cancel _)
    sub_eq_add_neg := fun x y => Fp2.ext
      (by change x.x0 - y.x0 = x.x0 + y.x0.neg; rw [Fp.neg_eq]; exact sub_eq_add_neg _ _)
      (by change x.x1 - y.x1 = x.x1 + y.x1.neg; rw [Fp.neg_eq]; exact sub_eq_add_neg _ _)
    mul_assoc := fun x y z => Fp2.ext
      (by change (x.x0 * y.x0 + Fp.beta * (x.x1 * y.x1)) * z.x0 + Fp.beta * ((x.x0 * y.x1 + x.x1 * y.x0) * z.x1) =
            x.x0 * (y.x0 * z.x0 + Fp.beta * (y.x1 * z.x1)) + Fp.beta * (x.x1 * (y.x0 * z.x1 + y.x1 * z.x0)); ring)
      (by change (x.x0 * y.x0 + Fp.beta * (x.x1 * y.x1)) * z.x1 + (x.x0 * y.x1 + x.x1 * y.x0) * z.x0 =
            x.x0 * (y.x0 * z.x1 + y.x1 * z.x0) + x.x1 * (y.x0 * z.x0 + Fp.beta * (y.x1 * z.x1)); ring)
    mul_comm := fun x y => Fp2.ext
      (by change x.x0 * y.x0 + Fp.beta * (x.x1 * y.x1) = y.x0 * x.x0 + Fp.beta * (y.x1 * x.x1); ring)
      (by change x.x0 * y.x1 + x.x1 * y.x0 = y.x0 * x.x1 + y.x1 * x.x0; ring)
    one_mul := fun x => Fp2.ext
      (by change 1 * x.x0 + Fp.beta * (0 * x.x1) = x.x0; ring)
      (by change 1 * x.x1 + 0 * x.x0 = x.x1; ring)
    mul_one := fun x => Fp2.ext
      (by change x.x0 * 1 + Fp.beta * (x.x1 * 0) = x.x0; ring)
      (by change x.x0 * 0 + x.x1 * 1 = x.x1; ring)
    left_distrib := fun x y z => Fp2.ext
      (by change x.x0 * (y.x0 + z.x0) + Fp.beta * (x.x1 * (y.x1 + z.x1)) =
            x.x0 * y.x0 + Fp.beta * (x.x1 * y.x1) + (x.x0 * z.x0 + Fp.beta * (x.x1 * z.x1)); ring)
      (by change x.x0 * (y.x1 + z.x1) + x.x1 * (y.x0 + z.x0) =
            x.x0 * y.x1 + x.x1 * y.x0 + (x.x0 * z.x1 + x.x1 * z.x0); ring)
    right_distrib := fun x y z => Fp2.ext
      (by change (x.x0 + y.x0) * z.x0 + Fp.beta * ((x.x1 + y.x1) * z.x1) =
            x.x0 * z.x0 + Fp.beta * (x.x1 * z.x1) + (y.x0 * z.x0 + Fp.beta * (y.x1 * z.x1)); ring)
      (by change (x.x0 + y.x0) * z.x1 + (x.x1 + y.x1) * z.x0 =
            x.x0 * z.x1 + x.x1 * z.x0 + (y.x0 * z.x1 + y.x1 * z.x0); ring)
    zero_mul := fun x => Fp2.ext
      (by change 0 * x.x0 + Fp.beta * (0 * x.x1) = 0; ring)
      (by change 0 * x.x1 + 0 * x.x0 = 0; ring)
    mul_zero := fun x => Fp2.ext
      (by change x.x0 * 0 + Fp.beta * (x.x1 * 0) = 0; ring)
      (by change x.x0 * 0 + x.x1 * 0 = 0; ring) }

theorem Fp2.add_eq (x y : Fp2) : x.add y = (letI := fp2Ring; x + y) := rfl
theorem Fp2.sub_eq (x y : Fp2) : x.sub y = (letI := fp2Ring; x - y) := rfl
theorem Fp2.neg_eq (x : Fp2) : x.neg = (letI := fp2Ring; -x) := rfl
theorem Fp2.mul_eq (x y : Fp2) : x.mul y = (letI := fp2Ring; x * y) := rfl
theorem Fp2.zero_eq : Fp2.zero = (letI := fp2Ring; 0) := rfl
theorem Fp2.one_eq : Fp2.one = (letI := fp2Ring; 1) := rfl

/-- Multiplication by u is the product with the generator u (40_tower.md R152). -/
theorem Fp2.mulU_eq (x : Fp2) : x.mulU = Fp2.u.mul x := by
  let := fpRing
  exact Fp2.ext (by change Fp.beta * x.x1 = 0 * x.x0 + Fp.beta * (1 * x.x1); ring)
    (by change x.x0 = 0 * x.x1 + 1 * x.x0; ring)

/-! ## Fp4 -/

theorem Fp4.ext {x y : Fp4} (h0 : x.y0 = y.y0) (h1 : x.y1 = y.y1) : x = y := by
  obtain ⟨_, _⟩ := x
  obtain ⟨_, _⟩ := y
  simp_all

/-- Fp4 as a ring: the model's own operations. -/
@[reducible] def fp4Ring : CommRing Fp4 :=
  letI := fp2Ring
  have mul0 : ∀ x y : Fp4, (x.mul y).y0 = x.y0 * y.y0 + Fp2.u * (x.y1 * y.y1) := fun x y => by
    change (x.y0.mul y.y0).add (x.y1.mul y.y1).mulU = _
    rw [Fp2.mulU_eq]
    rfl
  have mul1 : ∀ x y : Fp4, (x.mul y).y1 = x.y0 * y.y1 + x.y1 * y.y0 := fun _ _ => rfl
  { add := Fp4.add
    zero := Fp4.zero
    neg := Fp4.neg
    sub := Fp4.sub
    mul := Fp4.mul
    one := Fp4.one
    nsmul := @nsmulRec Fp4 ⟨Fp4.zero⟩ ⟨Fp4.add⟩
    zsmul := @zsmulRec Fp4 ⟨Fp4.zero⟩ ⟨Fp4.add⟩ ⟨Fp4.neg⟩ (@nsmulRec Fp4 ⟨Fp4.zero⟩ ⟨Fp4.add⟩)
    add_assoc := fun x y z => Fp4.ext (add_assoc _ _ _) (add_assoc _ _ _)
    zero_add := fun x => Fp4.ext (zero_add _) (zero_add _)
    add_zero := fun x => Fp4.ext (add_zero _) (add_zero _)
    add_comm := fun x y => Fp4.ext (add_comm _ _) (add_comm _ _)
    neg_add_cancel := fun x => Fp4.ext (neg_add_cancel _) (neg_add_cancel _)
    sub_eq_add_neg := fun x y => Fp4.ext (sub_eq_add_neg _ _) (sub_eq_add_neg _ _)
    mul_assoc := fun x y z => Fp4.ext
      (by change ((x.mul y).mul z).y0 = (x.mul (y.mul z)).y0; rw [mul0, mul0, mul0, mul1, mul0, mul1]; ring)
      (by change ((x.mul y).mul z).y1 = (x.mul (y.mul z)).y1; rw [mul1, mul1, mul0, mul1, mul0, mul1]; ring)
    mul_comm := fun x y => Fp4.ext
      (by change (x.mul y).y0 = (y.mul x).y0; rw [mul0, mul0]; ring)
      (by change (x.mul y).y1 = (y.mul x).y1; rw [mul1, mul1]; ring)
    one_mul := fun x => Fp4.ext
      (by change (Fp4.one.mul x).y0 = x.y0; rw [mul0]; change 1 * x.y0 + Fp2.u * (0 * x.y1) = x.y0; ring)
      (by change (Fp4.one.mul x).y1 = x.y1; rw [mul1]; change 1 * x.y1 + 0 * x.y0 = x.y1; ring)
    mul_one := fun x => Fp4.ext
      (by change (x.mul Fp4.one).y0 = x.y0; rw [mul0]; change x.y0 * 1 + Fp2.u * (x.y1 * 0) = x.y0; ring)
      (by change (x.mul Fp4.one).y1 = x.y1; rw [mul1]; change x.y0 * 0 + x.y1 * 1 = x.y1; ring)
    left_distrib := fun x y z => Fp4.ext
      (by change (x.mul (y.add z)).y0 = (x.mul y).y0 + (x.mul z).y0
          rw [mul0, mul0, mul0]
          change x.y0 * (y.y0 + z.y0) + Fp2.u * (x.y1 * (y.y1 + z.y1)) = _
          ring)
      (by change (x.mul (y.add z)).y1 = (x.mul y).y1 + (x.mul z).y1
          rw [mul1, mul1, mul1]
          change x.y0 * (y.y1 + z.y1) + x.y1 * (y.y0 + z.y0) = _
          ring)
    right_distrib := fun x y z => Fp4.ext
      (by change ((x.add y).mul z).y0 = (x.mul z).y0 + (y.mul z).y0
          rw [mul0, mul0, mul0]
          change (x.y0 + y.y0) * z.y0 + Fp2.u * ((x.y1 + y.y1) * z.y1) = _
          ring)
      (by change ((x.add y).mul z).y1 = (x.mul z).y1 + (y.mul z).y1
          rw [mul1, mul1, mul1]
          change (x.y0 + y.y0) * z.y1 + (x.y1 + y.y1) * z.y0 = _
          ring)
    zero_mul := fun x => Fp4.ext
      (by change (Fp4.zero.mul x).y0 = 0; rw [mul0]; change 0 * x.y0 + Fp2.u * (0 * x.y1) = 0; ring)
      (by change (Fp4.zero.mul x).y1 = 0; rw [mul1]; change 0 * x.y1 + 0 * x.y0 = 0; ring)
    mul_zero := fun x => Fp4.ext
      (by change (x.mul Fp4.zero).y0 = 0; rw [mul0]; change x.y0 * 0 + Fp2.u * (x.y1 * 0) = 0; ring)
      (by change (x.mul Fp4.zero).y1 = 0; rw [mul1]; change x.y0 * 0 + x.y1 * 0 = 0; ring) }

theorem Fp4.add_eq (x y : Fp4) : x.add y = (letI := fp4Ring; x + y) := rfl
theorem Fp4.sub_eq (x y : Fp4) : x.sub y = (letI := fp4Ring; x - y) := rfl
theorem Fp4.neg_eq (x : Fp4) : x.neg = (letI := fp4Ring; -x) := rfl
theorem Fp4.mul_eq (x y : Fp4) : x.mul y = (letI := fp4Ring; x * y) := rfl
theorem Fp4.zero_eq : Fp4.zero = (letI := fp4Ring; 0) := rfl
theorem Fp4.one_eq : Fp4.one = (letI := fp4Ring; 1) := rfl

/-- The generator v of Fp4. -/
def Fp4.v : Fp4 := ⟨Fp2.zero, Fp2.one⟩

/-- Multiplication by v is the product with the generator v (40_tower.md R152). -/
theorem Fp4.mulV_eq (x : Fp4) : x.mulV = Fp4.v.mul x := by
  let := fp2Ring
  refine Fp4.ext ?_ ?_
  · change x.y1.mulU = ((0 : Fp2) * x.y0) + (Fp2.mulU ((1 : Fp2) * x.y1))
    rw [one_mul, zero_mul, zero_add]
  · change x.y0 = 0 * x.y1 + 1 * x.y0
    ring

end Sys2Proof.Machine
end

