-- ==== Sys2Proof/Laws/PerInstr.lean ====
section
/-! SUPPORT. Facts about every command as syntax, one lemma per constructor. -/

/-- The command word carries the command's opcode in OP and 0 in RSV (30_encoding.md R120, R124, R127). -/
def Sys2Proof.Laws.OpcodeField.Statement (instr : Sys2Proof.Instr) : Prop :=
  Sys2Proof.Word.opField (Sys2Proof.encode instr) = instr.opcode ∧ Sys2Proof.Word.rsvField (Sys2Proof.encode instr) = 0#8

namespace Sys2Proof.Laws.OpcodeField

theorem nop : Statement (.nop) := by simp [Statement, encode]
theorem init : Statement (.init) := by simp [Statement, encode]
theorem ldx (d : RegIx) (i : Imm) : Statement (.ldx d i) := by simp [Statement, encode]
theorem stx (a : RegIx) : Statement (.stx a) := by simp [Statement, encode]
theorem mov (d : RegIx) (a : RegIx) : Statement (.mov d a) := by simp [Statement, encode]
theorem set1 (d : RegIx) : Statement (.set1 d) := by simp [Statement, encode]
theorem tag (d : RegIx) (i : Imm) : Statement (.tag d i) := by simp [Statement, encode]
theorem eq (a : RegIx) (b : RegIx) : Statement (.eq a b) := by simp [Statement, encode]
theorem ldk (d : RegIx) (i : Imm) : Statement (.ldk d i) := by simp [Statement, encode]
theorem mul (d : RegIx) (a : RegIx) (b : RegIx) : Statement (.mul d a b) := by simp [Statement, encode]
theorem sqr (d : RegIx) (a : RegIx) : Statement (.sqr d a) := by simp [Statement, encode]
theorem conj (d : RegIx) (a : RegIx) : Statement (.conj d a) := by simp [Statement, encode]
theorem inv (d : RegIx) (a : RegIx) : Statement (.inv d a) := by simp [Statement, encode]
theorem div (d : RegIx) (a : RegIx) (b : RegIx) : Statement (.div d a b) := by simp [Statement, encode]
theorem frob (d : RegIx) (a : RegIx) (i : Imm) : Statement (.frob d a i) := by simp [Statement, encode]
theorem pow (d : RegIx) (a : RegIx) (b : RegIx) : Statement (.pow d a b) := by simp [Statement, encode]
theorem ldp (d : RegIx) (i : Imm) : Statement (.ldp d i) := by simp [Statement, encode]
theorem stp (a : RegIx) : Statement (.stp a) := by simp [Statement, encode]
theorem ldq (d : RegIx) : Statement (.ldq d) := by simp [Statement, encode]
theorem frobp (d : RegIx) (a : RegIx) : Statement (.frobp d a) := by simp [Statement, encode]
theorem miller (d : RegIx) (a : RegIx) (b : RegIx) : Statement (.miller d a b) := by simp [Statement, encode]
theorem fexp (d : RegIx) (a : RegIx) : Statement (.fexp d a) := by simp [Statement, encode]
theorem pair (d : RegIx) (a : RegIx) (b : RegIx) : Statement (.pair d a b) := by simp [Statement, encode]
theorem member (a : RegIx) : Statement (.member a) := by simp [Statement, encode]

end Sys2Proof.Laws.OpcodeField
end

