-- ==== Sys2Proof/Machine/Assembler.lean ====
section
/-! DEFINITION. The assembler syntax and the pseudo-instructions (30_encoding.md R131, R132). No step of the machine uses it. -/

namespace Sys2Proof.Machine

/-! ## Pseudo-instructions (R132) -/

/-- The pseudo-instructions that expand to one command. -/
inductive Pseudo where
  | sqrg (d a : RegIx)
  | untag (d : RegIx)
  | marku (d : RegIx)
  | markm (d : RegIx)
  | frob2 (d a : RegIx)
  | frob3 (d a : RegIx)
  | cpy (d a : RegIx)
  | ldinf (d : RegIx)
deriving DecidableEq, Repr

/-- The exact expansions (R132). -/
def Pseudo.expand : Pseudo → Instr
  | .sqrg d a => .mul d a a
  | .untag d => .tag d 0#4
  | .marku d => .tag d 1#4
  | .markm d => .tag d 2#4
  | .frob2 d a => .frob d a 2#4
  | .frob3 d a => .frob d a 3#4
  | .cpy d a => .mov d a
  | .ldinf d => .ldp d 1#4

/-- CLRERR, which is no command: the host write of 0x4 to STATUS (R132). -/
def clrerr : HostAction := .write (Config.engineBase + 0x008) 4 0x4#32

/-! ## Operands (R131) -/

/-- An operand as written: a register of file X, P, Q or K, an immediate, or a keyword. -/
inductive AsmOperand where
  | reg (file : Char) (n : Nat)
  | imm (n : Nat)
  | keyword (s : String)
deriving DecidableEq, Repr

def decimalDigit (c : Char) : Option Nat :=
  if '0' ≤ c ∧ c ≤ '9' then some (c.toNat - '0'.toNat) else none

def hexDigit (c : Char) : Option Nat :=
  if 'a' ≤ c ∧ c ≤ 'f' then some (c.toNat - 'a'.toNat + 10)
  else if 'A' ≤ c ∧ c ≤ 'F' then some (c.toNat - 'A'.toNat + 10)
  else decimalDigit c

/-- The number written in `digits`, most significant first, continuing from `acc`. -/
def digitsNat (base : Nat) (digit : Char → Option Nat) : Nat → List Char → Option Nat
  | acc, [] => some acc
  | acc, c :: cs =>
    match digit c with
    | some v => digitsNat base digit (acc * base + v) cs
    | none => none

/-- A number in decimal or with a 0x prefix (R131). Leading zeros, and hexadecimal digits in either case, are the model's choice
(DESIGN CHOICE, log 24). -/
def asmNumber : List Char → Option Nat
  | [] => none
  | '0' :: 'x' :: c :: cs => digitsNat 16 hexDigit 0 (c :: cs)
  | c :: cs => digitsNat 10 decimalDigit 0 (c :: cs)

/-- The index of a register operand. R131 names X0–X15, P0–P3, Q0–Q3 and K0–K3; that an index may have leading zeros, so that X03 is
X3, is the model's choice (DESIGN CHOICE, log 24). -/
def asmRegister (file : Char) (cs : List Char) : Option AsmOperand :=
  match cs with
  | [] => none
  | c :: cs => (digitsNat 10 decimalDigit 0 (c :: cs)).map (AsmOperand.reg file)

/-- One operand. -/
def asmOperand : List Char → Option AsmOperand
  | '#' :: cs => (asmNumber cs).map AsmOperand.imm
  | 'X' :: cs => asmRegister 'X' cs
  | 'P' :: cs => asmRegister 'P' cs
  | 'Q' :: cs => asmRegister 'Q' cs
  | 'K' :: cs => asmRegister 'K' cs
  | [] => none
  | c :: cs => some (.keyword (String.ofList (c :: cs)))

/-! ## Lines (R131) -/

def asmTrim (cs : List Char) : List Char :=
  ((cs.dropWhile fun c => c == ' ').reverse.dropWhile fun c => c == ' ').reverse

/-- The operand texts of `cs`, separated by commas; `cur` is the one being read, reversed. -/
def asmSplit : List Char → List Char → List (List Char)
  | cur, [] => [cur.reverse]
  | cur, ',' :: cs => cur.reverse :: asmSplit [] cs
  | cur, c :: cs => asmSplit (c :: cur) cs

/-- All of a list of operand texts, or none if one is no operand. -/
def asmOperands : List (List Char) → Option (List AsmOperand)
  | [] => some []
  | t :: ts =>
    match asmOperand (asmTrim t), asmOperands ts with
    | some o, some os => some (o :: os)
    | _, _ => none

/-- A register operand of `file` with index below `n`. -/
def asmReg (file : Char) (n : Nat) : AsmOperand → Option RegIx
  | .reg c i => if c = file ∧ i < n then some (BitVec.ofNat 4 i) else none
  | _ => none

def asmX := asmReg 'X' 16
def asmP := asmReg 'P' 4
def asmQ := asmReg 'Q' 4
def asmK := asmReg 'K' 4

/-- A tag immediate: #n with n = U + 2·M, or its keyword (R131). -/
def asmTags : AsmOperand → Option Imm
  | .imm n => if n < 4 then some (BitVec.ofNat 4 n) else none
  | .keyword "plain" => some 0#4
  | .keyword "unitary" => some 1#4
  | .keyword "miller" => some 2#4
  | .keyword "unitary+miller" => some 3#4
  | _ => none

/-- LDK's sign: #0 or #1, or + or - (R131). -/
def asmSign : AsmOperand → Option Imm
  | .imm n => if n < 2 then some (BitVec.ofNat 4 n) else none
  | .keyword "+" => some 0#4
  | .keyword "-" => some 1#4
  | _ => none

/-- LDP's infinity marker: #0 or #1, or the keyword inf (R131). -/
def asmInf : AsmOperand → Option Imm
  | .imm n => if n < 2 then some (BitVec.ofNat 4 n) else none
  | .keyword "inf" => some 1#4
  | _ => none

/-- FROB's count (R131, R123). -/
def asmCount : AsmOperand → Option Imm
  | .imm n => if n < 16 then some (BitVec.ofNat 4 n) else none
  | _ => none

/-- The command of a mnemonic and its operands, in the order D, A, B, I with unused fields omitted (R131), the
pseudo-instructions among them (R132). -/
def asmCommand (mnemonic : String) (ops : List AsmOperand) : Option Instr :=
  match ops with
  | [] =>
    match mnemonic with
    | "NOP" => some .nop
    | "INIT" => some .init
    | _ => none
  | [o] =>
    match mnemonic with
    | "STX" => (asmX o).map .stx
    | "SET1" => (asmX o).map .set1
    | "STP" => (asmP o).map .stp
    | "LDQ" => (asmQ o).map .ldq
    | "MEMBER" => (asmX o).map .member
    | "UNTAG" => (asmX o).map fun d => (Pseudo.untag d).expand
    | "MARKU" => (asmX o).map fun d => (Pseudo.marku d).expand
    | "MARKM" => (asmX o).map fun d => (Pseudo.markm d).expand
    | "LDINF" => (asmP o).map fun d => (Pseudo.ldinf d).expand
    | _ => none
  | [o, o'] =>
    match mnemonic with
    | "LDX" => do return .ldx (← asmX o) (← asmTags o')
    | "MOV" => do return .mov (← asmX o) (← asmX o')
    | "TAG" => do return .tag (← asmX o) (← asmTags o')
    | "EQ" => do return .eq (← asmX o) (← asmX o')
    | "LDK" => do return .ldk (← asmK o) (← asmSign o')
    | "SQR" => do return .sqr (← asmX o) (← asmX o')
    | "CONJ" => do return .conj (← asmX o) (← asmX o')
    | "INV" => do return .inv (← asmX o) (← asmX o')
    | "LDP" => do return .ldp (← asmP o) (← asmInf o')
    | "FROBP" => do return .frobp (← asmP o) (← asmP o')
    | "FEXP" => do return .fexp (← asmX o) (← asmX o')
    | "SQRG" => do return (Pseudo.sqrg (← asmX o) (← asmX o')).expand
    | "FROB2" => do return (Pseudo.frob2 (← asmX o) (← asmX o')).expand
    | "FROB3" => do return (Pseudo.frob3 (← asmX o) (← asmX o')).expand
    | "CPY" => do return (Pseudo.cpy (← asmX o) (← asmX o')).expand
    | _ => none
  | [o, o', o''] =>
    match mnemonic with
    | "MUL" => do return .mul (← asmX o) (← asmX o') (← asmX o'')
    | "DIV" => do return .div (← asmX o) (← asmX o') (← asmX o'')
    | "FROB" => do return .frob (← asmX o) (← asmX o') (← asmCount o'')
    | "POW" => do return .pow (← asmX o) (← asmX o') (← asmK o'')
    | "MILLER" => do return .miller (← asmX o) (← asmP o') (← asmQ o'')
    | "PAIR" => do return .pair (← asmX o) (← asmP o') (← asmQ o'')
    | _ => none
  | _ => none

/-- The command a line of assembler text stands for: a `;` starts a comment, then the mnemonic and its operands separated by
commas (R131). None where the line is no command. -/
def assembleLine (line : String) : Option Instr :=
  let code := asmTrim (line.toList.takeWhile fun c => c != ';')
  let mnemonic := String.ofList (code.takeWhile fun c => c != ' ')
  let rest := asmTrim (code.dropWhile fun c => c != ' ')
  if rest.isEmpty then asmCommand mnemonic []
  else
    match asmOperands (asmSplit [] rest) with
    | some ops => asmCommand mnemonic ops
    | none => none

/-! ## Writing a command as text (R131) -/

def asmRegText (file : String) (r : RegIx) : String := file ++ toString r.toNat
def asmImmText (i : Imm) : String := "#" ++ toString i.toNat

/-- The command as assembler text, immediates as #n (R131). -/
def asmText : Instr → String
  | .nop => "NOP"
  | .init => "INIT"
  | .ldx d i => "LDX " ++ asmRegText "X" d ++ ", " ++ asmImmText i
  | .stx a => "STX " ++ asmRegText "X" a
  | .mov d a => "MOV " ++ asmRegText "X" d ++ ", " ++ asmRegText "X" a
  | .set1 d => "SET1 " ++ asmRegText "X" d
  | .tag d i => "TAG " ++ asmRegText "X" d ++ ", " ++ asmImmText i
  | .eq a b => "EQ " ++ asmRegText "X" a ++ ", " ++ asmRegText "X" b
  | .ldk d i => "LDK " ++ asmRegText "K" d ++ ", " ++ asmImmText i
  | .mul d a b => "MUL " ++ asmRegText "X" d ++ ", " ++ asmRegText "X" a ++ ", " ++ asmRegText "X" b
  | .sqr d a => "SQR " ++ asmRegText "X" d ++ ", " ++ asmRegText "X" a
  | .conj d a => "CONJ " ++ asmRegText "X" d ++ ", " ++ asmRegText "X" a
  | .inv d a => "INV " ++ asmRegText "X" d ++ ", " ++ asmRegText "X" a
  | .div d a b => "DIV " ++ asmRegText "X" d ++ ", " ++ asmRegText "X" a ++ ", " ++ asmRegText "X" b
  | .frob d a i => "FROB " ++ asmRegText "X" d ++ ", " ++ asmRegText "X" a ++ ", " ++ asmImmText i
  | .pow d a b => "POW " ++ asmRegText "X" d ++ ", " ++ asmRegText "X" a ++ ", " ++ asmRegText "K" b
  | .ldp d i => "LDP " ++ asmRegText "P" d ++ ", " ++ asmImmText i
  | .stp a => "STP " ++ asmRegText "P" a
  | .ldq d => "LDQ " ++ asmRegText "Q" d
  | .frobp d a => "FROBP " ++ asmRegText "P" d ++ ", " ++ asmRegText "P" a
  | .miller d a b => "MILLER " ++ asmRegText "X" d ++ ", " ++ asmRegText "P" a ++ ", " ++ asmRegText "Q" b
  | .fexp d a => "FEXP " ++ asmRegText "X" d ++ ", " ++ asmRegText "X" a
  | .pair d a b => "PAIR " ++ asmRegText "X" d ++ ", " ++ asmRegText "P" a ++ ", " ++ asmRegText "Q" b
  | .member a => "MEMBER " ++ asmRegText "X" a

end Sys2Proof.Machine
end

