-- ==== Sys2Proof/Tests/Slice0.lean ====
section
/-! SUPPORT. The model's own tests: ill-formed terms the checks refuse, words written out from 30_encoding.md R120 and R125 that
decode to their commands, one or two small tests per command with the results of spec/95_test_vectors.md, and for every obligation
with hypotheses a witness that meets them. -/

namespace Sys2Proof.Tests

-- One theorem is checked after the other, so that the kernel evaluations do not all hold a thread at once.
set_option Elab.async false

open Sys2Proof Sys2Proof.Machine

/-! ## WellFormed refuses an ill-formed term for each check -/

theorem test_wf_refuses_ldk_index : ¬ (Instr.ldk 4 0).WellFormed := by decide
theorem test_wf_refuses_ldk_sign : ¬ (Instr.ldk 3 2).WellFormed := by decide
theorem test_wf_refuses_pow_index : ¬ (Instr.pow 0 0 4).WellFormed := by decide
theorem test_wf_refuses_ldp_index : ¬ (Instr.ldp 4 0).WellFormed := by decide
theorem test_wf_refuses_ldp_inf : ¬ (Instr.ldp 3 2).WellFormed := by decide
theorem test_wf_refuses_stp_index : ¬ (Instr.stp 4).WellFormed := by decide
theorem test_wf_refuses_ldq_index : ¬ (Instr.ldq 15).WellFormed := by decide
theorem test_wf_refuses_frobp_dest : ¬ (Instr.frobp 4 0).WellFormed := by decide
theorem test_wf_refuses_frobp_source : ¬ (Instr.frobp 0 4).WellFormed := by decide
theorem test_wf_refuses_miller_point : ¬ (Instr.miller 0 4 0).WellFormed := by decide
theorem test_wf_refuses_miller_q : ¬ (Instr.miller 0 0 4).WellFormed := by decide
theorem test_wf_refuses_pair_point : ¬ (Instr.pair 0 4 0).WellFormed := by decide
theorem test_wf_refuses_pair_q : ¬ (Instr.pair 0 0 4).WellFormed := by decide
theorem test_wf_refuses_ldx_tags : ¬ (Instr.ldx 0 4).WellFormed := by decide
theorem test_wf_refuses_tag_tags : ¬ (Instr.tag 0 8).WellFormed := by decide
theorem test_wf_takes_highest : (Instr.pow 15 15 3).WellFormed ∧ (Instr.ldx 15 3).WellFormed ∧ (Instr.ldk 3 1).WellFormed := by decide

/-! ## Decoding, every command: the hex digits of a word are RSV RSV I B A D OP OP (30_encoding.md R120, R125) -/

theorem test_decode_nop : decode 0x00000000#32 = some (.nop) := by decide
theorem test_decode_init : decode 0x00000001#32 = some (.init) := by decide
theorem test_decode_ldx : decode 0x00300F10#32 = some (.ldx 15 3) := by decide
theorem test_decode_stx : decode 0x0000F011#32 = some (.stx 15) := by decide
theorem test_decode_mov : decode 0x00002112#32 = some (.mov 1 2) := by decide
theorem test_decode_set1 : decode 0x00000713#32 = some (.set1 7) := by decide
theorem test_decode_tag : decode 0x00200314#32 = some (.tag 3 2) := by decide
theorem test_decode_eq : decode 0x00047015#32 = some (.eq 7 4) := by decide
theorem test_decode_ldk : decode 0x00100316#32 = some (.ldk 3 1) := by decide
theorem test_decode_mul : decode 0x00021320#32 = some (.mul 3 1 2) := by decide
theorem test_decode_sqr : decode 0x00002121#32 = some (.sqr 1 2) := by decide
theorem test_decode_conj : decode 0x00002122#32 = some (.conj 1 2) := by decide
theorem test_decode_inv : decode 0x00002123#32 = some (.inv 1 2) := by decide
theorem test_decode_div : decode 0x00032124#32 = some (.div 1 2 3) := by decide
theorem test_decode_frob : decode 0x00F02125#32 = some (.frob 1 2 15) := by decide
theorem test_decode_pow : decode 0x00032126#32 = some (.pow 1 2 3) := by decide
theorem test_decode_ldp : decode 0x00100330#32 = some (.ldp 3 1) := by decide
theorem test_decode_stp : decode 0x00003031#32 = some (.stp 3) := by decide
theorem test_decode_ldq : decode 0x00000232#32 = some (.ldq 2) := by decide
theorem test_decode_frobp : decode 0x00002133#32 = some (.frobp 1 2) := by decide
theorem test_decode_miller : decode 0x00032F34#32 = some (.miller 15 2 3) := by decide
theorem test_decode_fexp : decode 0x00002135#32 = some (.fexp 1 2) := by decide
theorem test_decode_pair : decode 0x00032F36#32 = some (.pair 15 2 3) := by decide
theorem test_decode_member : decode 0x0000F037#32 = some (.member 15) := by decide
theorem test_decode_unassigned_op : decode 0x00000002#32 = none ∧ decode 0x00000038#32 = none ∧ decode 0x000000FF#32 = none := by decide
theorem test_decode_reserved_byte : decode 0x01021320#32 = none ∧ decode 0x80000000#32 = none := by decide
theorem test_decode_unused_field : decode 0x00000100#32 = none ∧ decode 0x00010110#32 = none ∧ decode 0x00101320#32 = none := by decide
theorem test_decode_index_range : decode 0x00000416#32 = none ∧ decode 0x00040026#32 = none ∧ decode 0x00004031#32 = none := by decide
theorem test_decode_immediate_range : decode 0x00400010#32 = none ∧ decode 0x00200016#32 = none ∧ decode 0x00200030#32 = none := by decide
theorem test_table_word : decodeTableWord 32 0x00021320 = some (.mul 3 1 2) ∧ decodeTableWord 32 0x00000002 = none := by decide

/-! ## Assembler (30_encoding.md R131, R132) -/

theorem test_asm_mul : assembleLine "MUL X3, X1, X2" = some (.mul 3 1 2) := by decide +kernel
theorem test_asm_frob : assembleLine "FROB X0, X0, #2" = some (.frob 0 0 2) := by decide +kernel
/-- Leading zeros in an index are the model's choice (log 24). -/
theorem test_asm_leading_zero : assembleLine "MUL X03, X1, X2" = some (.mul 3 1 2) := by decide +kernel
theorem test_asm_refuses_index : assembleLine "LDQ Q4" = none := by decide +kernel
theorem test_pseudo_ldinf : encode (Pseudo.ldinf 1).expand = 0x00100130#32 ∧ encode (Pseudo.frob3 1 2).expand = 0x00302125#32 := by
  decide

/-! ## A small state -/

/-- Twelve limbs, 0 but for the listed ones. -/
def sparse (l : List (Nat × Nat)) : List Nat :=
  (List.range 12).map fun j => ((l.filter fun e => e.1 == j).map Prod.snd).sum

/-- The value with a small integer in one limb, 0 elsewhere. -/
def oneLimb (j n : Nat) : Fp12 :=
  let l (i : Nat) : Fp := if i = j then Fp.ofNat n else Fp.zero
  Fp12.ofLimbs (l 0) (l 1) (l 2) (l 3) (l 4) (l 5) (l 6) (l 7) (l 8) (l 9) (l 10) (l 11)

/-- The G2 generator of V-P1. -/
def genP2 : G2Point :=
  ⟨false,
   ⟨Fp.ofNat 0x3722755292130B08D2AAB97FD34EC120EE265948D19C17ABF9B7213BAF82D65B,
    Fp.ofNat 0x85AEF3D078640C98597B6027B441A01FF1DD2C190F5E93C454806C11D8806141⟩,
   ⟨Fp.ofNat 0xA7CF28D519BE3DA65F3170153D278FF247EFBA98A71A08116215BBA5C999A7C7,
    Fp.ofNat 0x17509B092E845C1266BA0D262CBEE6ED0736A96FA347C8BD856DC76B84EBEB96⟩⟩

/-- The G1 generator of V-P1. -/
def genP1 : G1Point :=
  ⟨Fp.ofNat 0x93DE051D62BF718FF5ED0704487D01D6E1E4086909DC3280E8C4E4817C66DDDD,
   Fp.ofNat 0x21FE8DDA4F21E607631065125C395BBC1C1C00CBFA6024350C464CD70A3EA616⟩

/-- F of the initialised engine. -/
def valueF : Fp2 := frobeniusConstant

/-- The entries of a register file, the rest unwritten. -/
def fileOf {α : Type} (n : Nat) (l : List α) : Vector (Option α) n :=
  Vector.ofFn fun i => l[i.val]?

/-- An initialised engine: X0 = w (M = 1), X1 = w², X2 = 0, X3 = 1 (U = 1), X4 = v, X5 = 0 (U = 1), X6 = w (U = 1), X7 = 1 + w;
P0 the generator, P1 infinity, P2 = (5, 0); Q0 the generator; K0 = 3, K1 = −1, K2 = 0. NOP is latched. -/
def ready : State :=
  { State.reset with
    x := fileOf 16 [⟨oneLimb 7 1, false, true⟩, ⟨oneLimb 3 1, false, false⟩, ⟨oneLimb 0 0, false, false⟩,
      ⟨oneLimb 11 1, true, false⟩, ⟨oneLimb 9 1, false, false⟩, ⟨oneLimb 0 0, true, false⟩, ⟨oneLimb 7 1, true, false⟩,
      ⟨⟨Fp4.zero, Fp4.one, Fp4.one⟩, false, false⟩]
    p := fileOf 4 [genP2, ⟨true, Fp2.zero, Fp2.zero⟩, ⟨false, ⟨Fp.ofNat 5, Fp.zero⟩, Fp2.zero⟩]
    q := fileOf 4 [genP1]
    k := fileOf 4 [⟨false, 3#256⟩, ⟨true, 1#256⟩, ⟨false, 0#256⟩]
    f := some valueF
    initDone := true
    latch := some ⟨0x00000000#32, 0⟩ }

/-- `ready` with the `n`-byte number `v` at DATA offset 0. -/
def readyData (n v : Nat) : State := ready.setData (Memory.writeNat [] 0 n v)

/-- What `f` says of the state a command leaves. -/
def after {α : Type} (r : StepResult) (f : State → α) : Option α :=
  match r with
  | .next t => some (f t)
  | .fault _ => none
  | .refused _ => none

/-- The limbs and tags of X[d]. -/
def xReg (d : RegIx) (s : State) : Option (List Nat × Bool × Bool) :=
  match s.readX d with
  | .ok v => some (v.val.limbs.map (fun l => l.val), v.u, v.m)
  | .error _ => none

/-- The limbs x.imag, x.real, y.imag, y.real of P[d]. -/
def pReg (d : RegIx) (s : State) : Option (Bool × List Nat) :=
  match s.readP d with
  | .ok v => some (v.inf, [v.x.x1.val, v.x.x0.val, v.y.x1.val, v.y.x0.val])
  | .error _ => none

/-! ## Commands: results of 95_test_vectors.md and of the rules' worked examples -/

theorem test_nop_status : after (step (State.reset.withCommand 0x00000000#32)) State.statusWord = some 0x00000002#32 := by decide
theorem test_init_status : after (step (State.reset.withCommand 0x00000001#32)) State.statusWord = some 0x00000012#32 := by
  decide +kernel
theorem test_init_twice : after (exec .init ready) State.statusWord = some 0x00000314#32 := by decide +kernel

/-- V-D1 and V-D2: byte 255 is L7, byte 383 is L11. -/
theorem test_ldx_w :
    after (exec (.ldx 15 0) (readyData 256 1)) (xReg 15) = some (some (sparse [(7, 1)], false, false)) := by decide +kernel
theorem test_ldx_one :
    after (exec (.ldx 0 3) (readyData 384 1)) (xReg 0) = some (some (sparse [(11, 1)], true, true)) := by decide +kernel
/-- V-D5: STX of 1. -/
theorem test_stx_one : after (exec (.stx 3) (readyData 32 7)) (fun t => t.data) = some [(383, 1#8)] := by decide +kernel
theorem test_mov :
    after (exec (.mov 1 0) ready) (xReg 1) = some (some (sparse [(7, 1)], false, true)) := by decide +kernel
theorem test_set1 :
    after (exec (.set1 9) ready) (xReg 9) = some (some (sparse [(11, 1)], true, false)) := by decide +kernel
theorem test_tag :
    after (exec (.tag 0 1) ready) (xReg 0) = some (some (sparse [(7, 1)], true, false)) := by decide +kernel
theorem test_eq : after (exec (.eq 0 6) ready) (fun t => t.result) = some true ∧
    after (exec (.eq 0 1) ready) (fun t => t.result) = some false := by decide +kernel
/-- V-D12. -/
theorem test_ldk : after (exec (.ldk 0 1) (readyData 32 3)) (fun t => t.k[0]) = some (some ⟨true, 3#256⟩) := by decide +kernel
/-- V-T1 and V-T2. -/
theorem test_mul_w_w2 :
    after (exec (.mul 8 0 1) ready) (xReg 8) = some (some (sparse [(9, 1)], false, true)) := by decide +kernel
theorem test_mul_alias :
    after (exec (.mul 1 1 1) ready) (xReg 1) = some (some (sparse [(5, 1)], false, false)) := by decide +kernel
/-- V-T6 and V-T8. -/
theorem test_sqr_exact :
    after (exec (.sqr 8 7) ready) (xReg 8) = some (some (sparse [(3, 1), (7, 2), (11, 1)], false, false)) := by decide +kernel
theorem test_sqr_gs :
    after (exec (.sqr 8 6) ready) (xReg 8) = some (some (sparse [(3, 3), (7, 2)], true, false)) := by decide +kernel
/-- V-T9 and V-T10. -/
theorem test_conj_w :
    after (exec (.conj 8 0) ready) (xReg 8) = some (some (sparse [(7, 0xB640000002A3A6F1D603AB4FF58EC74521F2934B1A7AEEDBE56F9B27E351457C)], false, true)) := by decide +kernel
theorem test_conj_v :
    after (exec (.conj 8 4) ready) (xReg 8) = some (some (sparse [(9, 0xB640000002A3A6F1D603AB4FF58EC74521F2934B1A7AEEDBE56F9B27E351457C)], false, false)) := by decide +kernel
/-- V-T13 and V-T17. -/
theorem test_inv_w :
    after (exec (.inv 8 0) ready) (xReg 8) = some (some (sparse [(0, 0x5B2000000151D378EB01D5A7FAC763A290F949A58D3D776DF2B7CD93F1A8A2BE)], false, true)) := by decide +kernel
theorem test_inv_unitary :
    after (exec (.inv 8 6) ready) (xReg 8) = some (some (sparse [(7, 0xB640000002A3A6F1D603AB4FF58EC74521F2934B1A7AEEDBE56F9B27E351457C)], true, false)) := by decide +kernel
/-- V-T18. -/
theorem test_div :
    after (exec (.div 8 4 0) ready) (xReg 8) = some (some (sparse [(3, 1)], false, true)) := by decide +kernel
/-- V-T20 and V-T23. -/
theorem test_frob_once :
    after (exec (.frob 8 0 1) ready) (xReg 8) = some (some (sparse [(7, 0x3F23EA58E5720BDB843C6CFA9C08674947C5C86E0DDD04EDA91D8354377B698B)], false, true)) := by decide +kernel
theorem test_frob_six :
    after (exec (.frob 8 0 6) ready) (xReg 8) = some (some (sparse [(7, 0xB640000002A3A6F1D603AB4FF58EC74521F2934B1A7AEEDBE56F9B27E351457C)], false, true)) := by decide +kernel
/-- V-T26 and V-T27. -/
theorem test_pow_three :
    after (exec (.pow 8 0 0) ready) (xReg 8) = some (some (sparse [(9, 1)], false, true)) := by decide +kernel
theorem test_pow_minus_one :
    after (exec (.pow 8 0 1) ready) (xReg 8) = some (some (sparse [(0, 0x5B2000000151D378EB01D5A7FAC763A290F949A58D3D776DF2B7CD93F1A8A2BE)], false, true)) := by decide +kernel
/-- V-P1: the bytes of P2. -/
theorem test_ldp : after (exec (.ldp 3 0) (readyData 128
      0x85AEF3D078640C98597B6027B441A01FF1DD2C190F5E93C454806C11D88061413722755292130B08D2AAB97FD34EC120EE265948D19C17ABF9B7213BAF82D65B17509B092E845C1266BA0D262CBEE6ED0736A96FA347C8BD856DC76B84EBEB96A7CF28D519BE3DA65F3170153D278FF247EFBA98A71A08116215BBA5C999A7C7))
    (fun t => t.p[3]) = some (some genP2) := by decide +kernel
theorem test_ldp_infinity : after (exec (.ldp 3 1) (readyData 32 (2 ^ 256 - 1))) (pReg 3) = some (some (true, [0, 0, 0, 0])) := by
  decide +kernel
/-- STP of infinity clears bytes 0 to 127, keeps the others and sets RESULT. -/
theorem test_stp_infinity : after (exec (.stp 1) (readyData 129 0x0101)) (fun t => (t.data, t.result)) =
    some ([(128, 1#8)], true) := by decide +kernel
theorem test_stp_point : after (exec (.stp 2) (readyData 32 9)) (fun t => (t.data, t.result)) =
    some ([(63, 5#8)], false) := by decide +kernel
theorem test_ldq : after (exec (.ldq 3) (readyData 64 (7 * 2 ^ 256 + 8))) (fun t => t.q[3]) =
    some (some ⟨Fp.ofNat 7, Fp.ofNat 8⟩) := by decide +kernel
theorem test_ldq_range : after (exec (.ldq 3) (readyData 64 Config.q)) (fun t => t.err) = some (some .range) := by decide +kernel
/-- V-P5: FROBP of P2. -/
theorem test_frobp : after (exec (.frobp 1 0) ready) (pReg 1) = some (some (false,
    [0x62ABECB16B863092653DCE2542646C86CD1BFAF10DE8D49EABF16A15887729E6,
     0x89DEC724A1B520549709672072887EA6748CC9CB9B60C4BAD03587EE45164C32,
     0x5931695B4D58942A47F4F9401E0B98C54E23E850969D3145A45DF3FC812C3352,
     0x232B3845D136BF9853C156B424CB68B7FC05C1D115C4CCF554BBCC0614B557B5])) := by decide +kernel

/-- The raw Miller value of (P2, P1), V-P6. -/
def millerP2P1 : Fp12 := Fp12.ofLimbs
  (Fp.ofNat 0x3E4302AA2DD7FE33DC0CC8EE87EA40F2E624BCE22F542F86D179B69427EF110E)
  (Fp.ofNat 0x6EDFE4993FE4A2EFB6C946676BCF48DC0FA885C051DF5669C18526C00C7A9F6F)
  (Fp.ofNat 0x04767AE7CE2865EA7A1BD91FC0D730DA82599A30B8D291EB77BA6E51B882514E)
  (Fp.ofNat 0x8812BB00E7E858F8A64A2E29E3D4EB65EE9DA6B509F3CBAF21BC9ADF2438C428)
  (Fp.ofNat 0x048DE110A200F6317990DFFE167701C280B8C5BDD1C72826684F35B6D57740AA)
  (Fp.ofNat 0x0B91D155C1CCFFB88478CF430F1F812A379A738DEB54589C106CD7EEBD3CA4C9)
  (Fp.ofNat 0x691A341A1281DFCDFF2D19954F541FA8792E1EF0AAF721B26FDD65AB363A1015)
  (Fp.ofNat 0x0F33772B30364E7A287BAB3A838F8ABFB07204E3D442B29A6612A2C8AE623327)
  (Fp.ofNat 0xB439E9DA9E0A624AFC716B7296B7FBCCC535F8F0F7D67C7C1DAD17C627BEA822)
  (Fp.ofNat 0x66C8AEFDF5B2E3D99FF922A9F1E51246DA2441D0ECC407FE0E74A0966881FF07)
  (Fp.ofNat 0x446E03AFC54B6E8026DB3D49AFFA67DEAD66FFFA9FDFFE5C76E579B87936690B)
  (Fp.ofNat 0xA8207F11CD067DDA22CAB5742B4E4152DF95659F5D66A1B3ADB87CFC3DCB8734)

/-- The value of a computation that may fail. -/
def okValue (r : Except ErrorCode Fp12) : Option Fp12 :=
  match r with
  | .ok v => some v
  | .error _ => none

theorem eq_ok_of_okValue {r : Except ErrorCode Fp12} {v : Fp12} (h : okValue r = some v) : r = .ok v := by
  cases r <;> simp_all [okValue]

/-- V-P6, from the points of V-P1. -/
theorem test_miller_value : okValue (millerValue valueF genP2 genP1) = some millerP2P1 := by decide +kernel

theorem millerValue_ready : millerValue valueF genP2 genP1 = .ok millerP2P1 := eq_ok_of_okValue test_miller_value

/-- The loop written out from R240 has the same value on these points: V-P6. -/
theorem test_miller_by_rule : okValue (millerByRule valueF genP2 genP1) = some millerP2P1 := by decide +kernel

/-- V-P10: infinity, and a point with y = 0. -/
theorem test_miller_degenerate : after (exec (.miller 0 1 0) ready) (fun t => t.err) = some (some .pair) ∧
    after (exec (.miller 0 2 0) ready) (fun t => t.err) = some (some .pair) := by decide +kernel
theorem test_pair_infinity : after (exec (.pair 0 1 0) ready) (fun t => t.err) = some (some .pair) := by decide +kernel
/-- V-P10: FEXP of 0. -/
theorem test_fexp_zero : after (exec (.fexp 1 2) ready) (fun t => t.err) = some (some .zeroInv) := by decide +kernel
/-- 42_pairing.md R250: 0 is no member, 1 is one. -/
theorem test_member : after (exec (.member 2) { ready with result := true }) (fun t => t.result) = some false ∧
    after (exec (.member 3) ready) (fun t => t.result) = some true := by decide +kernel

/-! ## Errors and the host (60_exceptions.md R309, 10_state.md) -/

theorem test_unwritten_before_zero : after (exec (.div 8 9 2) ready) (fun t => t.err) = some (some .unwritten) := by decide +kernel
theorem test_illegal_before_init : after (step (State.reset.withCommand 0x000000FF#32)) State.statusWord = some 0x00000104#32 := by
  decide
theorem test_errcmd : after (step (State.reset.withCommand 0x00001223#32)) (fun t => (t.errcmd, t.err)) =
    some (0x00001223#32, some .notInit) := by decide
theorem test_clear_error : ((ready.fail .range).writeStatus 0x4#32).statusWord = 0x00000010#32 := by decide +kernel
theorem test_cmd_while_error : ((ready.fail .range).writeCmd 0x0#32).ovr = true ∧
    ((ready.fail .range).writeCmd 0x0#32).latch = none := by decide +kernel

/-! ## Witnesses: a state and operands that meet each obligation's hypotheses -/

theorem witness_DecodeOfEncode : (Instr.pow 15 15 3).WellFormed := by decide
theorem witness_EncodeOfDecode : decode 0x00021320#32 = some (.mul 3 1 2) := by decide
theorem witness_LegalWordMatchesExactlyOneRow :
    (decode 0x00100316#32).isSome = true ∧ (decode 0x00200316#32).isSome = false := by decide
theorem witness_IllegalWordRaisesIllegal : ∃ s : State, s.latch = some ⟨0x00200016#32, 0⟩ ∧ Word.rowCount 0x00200016#32 = 0 :=
  ⟨State.reset.withCommand 0x00200016#32, rfl, by decide⟩
theorem witness_StepPerformsLatchedCommand :
    ∃ s : State, s.latch = some ⟨0x00021320#32, 0⟩ ∧ decode 0x00021320#32 = some (.mul 3 1 2) :=
  ⟨ready.withCommand 0x00021320#32, rfl, by decide⟩
theorem witness_FetchWordRunsNext : (Instr.ldk 3 1).WellFormed := by decide
theorem witness_AcceptedCommandFinishes : ∃ s : State, s.latch = some ⟨0x00000000#32, 2⟩ ∧ s.host = [] :=
  ⟨{ State.reset with latch := some ⟨0x00000000#32, 2⟩ }, rfl, rfl⟩
theorem witness_NopChangesOnlyHandshake :
    (Word.opField 0x01000000#32 = 0x00#8 ∧ 0x01000000#32 ≠ 0x00000000#32 ∧
      (State.reset.withCommand 0x01000000#32).latch = some ⟨0x01000000#32, 0⟩) ∧
    (Instr.set1 0 ≠ .nop ∧ Instr.set1 0 ≠ .init ∧ State.reset.initDone = false) := by decide
theorem witness_InitDerivesFrobeniusConstant : State.reset.initDone = false ∧ ready.initDone = true := ⟨rfl, rfl⟩
theorem witness_LdxLoadsTwelveLimbs : (readyData 384 1).initDone = true ∧ (3#4).toNat < 4 ∧
    Fp12.one.limbs.map (fun l => l.val) = (List.range 12).map (fun j => (readyData 384 1).data.readNat (32 * j) 32) := by
  decide +kernel
theorem witness_StxStoresTwelveLimbs : (readyData 32 9).initDone = true ∧ (readyData 32 9).data.wf ∧
    (readyData 32 9).readX 0 = .ok ⟨oneLimb 7 1, false, true⟩ := ⟨rfl, by decide +kernel, rfl⟩
theorem witness_StxThenLdxRestoresRegister : (readyData 32 9).initDone = true ∧ (readyData 32 9).data.wf ∧
    (readyData 32 9).readX 0 = .ok ⟨oneLimb 7 1, false, true⟩ ∧ (2#4).toNat < 4 ∧ (2#4).getLsbD 0 = false ∧
    (2#4).getLsbD 1 = true := ⟨rfl, by decide +kernel, rfl, by decide, by decide, by decide⟩
theorem witness_MovSet1TagWriteRegister : ready.initDone = true ∧ ready.readX 0 = .ok ⟨oneLimb 7 1, false, true⟩ ∧
    (3#4).toNat < 4 := ⟨rfl, rfl, by decide⟩
theorem witness_EqComparesLimbsOnly : ready.initDone = true ∧ ready.readX 0 = .ok ⟨oneLimb 7 1, false, true⟩ ∧
    ready.readX 6 = .ok ⟨oneLimb 7 1, true, false⟩ := ⟨rfl, rfl, rfl⟩
theorem witness_LdkLoadsExponent : ready.initDone = true ∧ (3#4).toNat < 4 ∧ (1#4).toNat < 2 := ⟨rfl, by decide, by decide⟩
theorem witness_MulWritesProduct : ready.initDone = true ∧ ready.readX 0 = .ok ⟨oneLimb 7 1, false, true⟩ ∧
    ready.readX 3 = .ok ⟨oneLimb 11 1, true, false⟩ := ⟨rfl, rfl, rfl⟩
theorem witness_SqrFollowsUnitaryTag : ready.initDone = true ∧ ready.readX 0 = .ok ⟨oneLimb 7 1, false, true⟩ ∧
    ready.readX 6 = .ok ⟨oneLimb 7 1, true, false⟩ := ⟨rfl, rfl, rfl⟩
theorem witness_ConjNegatesSixLimbs : ready.initDone = true ∧ ready.readX 0 = .ok ⟨oneLimb 7 1, false, true⟩ ∧
    (oneLimb 7 1).limbs = [Fp.zero, Fp.zero, Fp.zero, Fp.zero, Fp.zero, Fp.zero, Fp.zero, Fp.one, Fp.zero, Fp.zero, Fp.zero,
      Fp.zero] := ⟨rfl, rfl, by decide +kernel⟩
theorem witness_InvWritesUniqueInverse : ready.initDone = true ∧ ready.readX 0 = .ok ⟨oneLimb 7 1, false, true⟩ ∧
    oneLimb 7 1 ≠ Fp12.zero := ⟨rfl, rfl, by decide +kernel⟩
theorem witness_InvOfUnitaryIsConjugate : ready.initDone = true ∧ ready.readX 5 = .ok ⟨oneLimb 0 0, true, false⟩ := ⟨rfl, rfl⟩
theorem witness_DivWritesQuotient : ready.initDone = true ∧ ready.readX 0 = .ok ⟨oneLimb 7 1, false, true⟩ ∧
    ready.readX 6 = .ok ⟨oneLimb 7 1, true, false⟩ ∧ ready.readX 4 = .ok ⟨oneLimb 9 1, false, false⟩ ∧
    oneLimb 9 1 ≠ Fp12.zero := ⟨rfl, rfl, rfl, rfl, by decide +kernel⟩
theorem witness_FrobAppliesPhi : ready.initDone = true ∧ ready.readX 0 = .ok ⟨oneLimb 7 1, false, true⟩ ∧
    ready.f = some valueF := ⟨rfl, rfl, rfl⟩
theorem witness_PowIsExactPower : ready.initDone = true ∧ (1#4).toNat < 4 ∧ ready.readX 0 = .ok ⟨oneLimb 7 1, false, true⟩ ∧
    ready.readK 1 = .ok ⟨true, 1#256⟩ ∧ oneLimb 7 1 ≠ Fp12.zero ∧
    ready.readX 2 = .ok ⟨oneLimb 0 0, false, false⟩ ∧ ready.readK 2 = .ok ⟨false, 0#256⟩ :=
  ⟨rfl, by decide, rfl, rfl, by decide +kernel, rfl, rfl⟩
theorem witness_PowOfUnitaryUsesGs : ready.initDone = true ∧ (1#4).toNat < 4 ∧
    ready.readX 5 = .ok ⟨oneLimb 0 0, true, false⟩ ∧ ready.readK 1 = .ok ⟨true, 1#256⟩ := ⟨rfl, by decide, rfl, rfl⟩
theorem witness_InverseOfZeroFails : ready.initDone = true ∧ ready.readX 2 = .ok ⟨oneLimb 0 0, false, false⟩ ∧
    oneLimb 0 0 = Fp12.zero ∧ ready.readX 1 = .ok ⟨oneLimb 3 1, false, false⟩ ∧ ready.readK 1 = .ok ⟨true, 1#256⟩ ∧
    Exponent.toInt ⟨true, 1#256⟩ < 0 ∧ ready.readX 5 = .ok ⟨oneLimb 0 0, true, false⟩ :=
  ⟨rfl, rfl, by decide +kernel, rfl, rfl, by decide, rfl⟩
theorem witness_LdpLoadsPoint : (readyData 64 5).initDone = true ∧ (3#4).toNat < 4 ∧ (1#4).toNat < 2 ∧
    (1#4).getLsbD 0 = true ∧ (0#4).getLsbD 0 = false ∧ (readyData 64 5).data.readNat 0 32 = Fp.zero.val ∧
    (readyData 64 5).data.readNat 32 32 = (Fp.ofNat 5).val ∧ (readyData 64 5).data.readNat 64 32 = Fp.zero.val ∧
    (readyData 64 5).data.readNat 96 32 = Fp.zero.val := by decide +kernel
theorem witness_StpStoresPointAndMarker : (readyData 32 9).initDone = true ∧ (readyData 32 9).data.wf ∧ (0#4).toNat < 4 ∧
    (readyData 32 9).readP 0 = .ok genP2 ∧ genP2.inf = false ∧
    (readyData 32 9).readP 1 = .ok ⟨true, Fp2.zero, Fp2.zero⟩ :=
  ⟨rfl, by decide +kernel, by decide, rfl, rfl, rfl⟩
theorem witness_LdqLoadsPoint : (readyData 64 5).initDone = true ∧ (3#4).toNat < 4 ∧
    (readyData 64 5).data.readNat 0 32 = Fp.zero.val ∧ (readyData 64 5).data.readNat 32 32 = (Fp.ofNat 5).val := by
  decide +kernel
/-- Limb 11 of LDX, 3 of LDP, 1 of LDQ. -/
theorem witness_UnreducedLimbFailsLoad : (readyData 384 Config.q).initDone = true ∧
    Config.q ≤ (readyData 384 Config.q).data.readNat (32 * 11) 32 ∧ Config.q ≤ (readyData 128 Config.q).data.readNat (32 * 3) 32 ∧
    Config.q ≤ (readyData 64 (2 ^ 256 - 1)).data.readNat (32 * 1) 32 ∧ (3#4).toNat < 4 ∧ (1#4).toNat < 2 := by decide +kernel
theorem witness_FrobpMapsPoint : ready.initDone = true ∧ (3#4).toNat < 4 ∧ (0#4).toNat < 4 ∧ ready.readP 0 = .ok genP2 ∧
    ready.f = some valueF ∧ genP2.inf = false ∧ ready.readP 1 = .ok ⟨true, Fp2.zero, Fp2.zero⟩ :=
  ⟨rfl, by decide, by decide, rfl, rfl, rfl, rfl⟩
theorem witness_FrobpKeepsTwist : Affine2.OnTwist ⟨genP2.x, genP2.y⟩ := by unfold Affine2.OnTwist; decide +kernel
theorem witness_MillerWritesMillerValue : ready.initDone = true ∧ (0#4).toNat < 4 ∧ ready.readP 0 = .ok genP2 ∧
    ready.readQ 0 = .ok genP1 ∧ ready.f = some valueF ∧ millerByRule valueF genP2 genP1 = .ok millerP2P1 ∧
    ready.readP 1 = .ok ⟨true, Fp2.zero, Fp2.zero⟩ ∧ millerByRule valueF ⟨true, Fp2.zero, Fp2.zero⟩ genP1 = .error .pair :=
  ⟨rfl, by decide, rfl, rfl, rfl, eq_ok_of_okValue test_miller_by_rule, rfl, rfl⟩
/-- A vertical line, a doubling with y = 0, a tangent and a chord. -/
theorem witness_StepFoldsLineOrFails :
    (∃ acc : MillerAcc, ∃ ss : Affine2, acc.pt.x = ss.x ∧ acc.pt.y ≠ ss.y) ∧
    (∃ acc : MillerAcc, ∃ ss : Affine2, acc.pt.x = ss.x ∧ acc.pt.y = Fp2.zero) ∧
    (∃ acc : MillerAcc, ∃ ss : Affine2, acc.pt.x = ss.x ∧ acc.pt.y = ss.y ∧ acc.pt.y ≠ Fp2.zero) ∧
    (∃ acc : MillerAcc, ∃ ss : Affine2, acc.pt.x ≠ ss.x) :=
  ⟨⟨⟨Fp12.one, ⟨Fp2.zero, Fp2.one⟩⟩, ⟨Fp2.zero, Fp2.u⟩, by decide +kernel⟩,
   ⟨⟨Fp12.one, ⟨Fp2.one, Fp2.zero⟩⟩, ⟨Fp2.one, Fp2.zero⟩, by decide +kernel⟩,
   ⟨⟨Fp12.one, ⟨Fp2.zero, Fp2.one⟩⟩, ⟨Fp2.zero, Fp2.one⟩, by decide +kernel⟩,
   ⟨⟨Fp12.one, ⟨Fp2.zero, Fp2.one⟩⟩, ⟨Fp2.one, Fp2.one⟩, by decide +kernel⟩⟩
theorem witness_DegeneratePairingFails : ready.initDone = true ∧ (2#4).toNat < 4 ∧ ready.readQ 0 = .ok genP1 ∧
    ready.f = some valueF ∧ ready.readP 1 = .ok ⟨true, Fp2.zero, Fp2.zero⟩ ∧
    ready.readP 2 = .ok ⟨false, ⟨Fp.ofNat 5, Fp.zero⟩, Fp2.zero⟩ ∧
    millerByRule valueF ⟨true, Fp2.zero, Fp2.zero⟩ genP1 = .error .pair :=
  ⟨rfl, by decide, rfl, rfl, rfl, rfl, rfl⟩
theorem witness_FexpIsExactPower : ready.initDone = true ∧ ready.readX 0 = .ok ⟨oneLimb 7 1, false, true⟩ ∧
    oneLimb 7 1 ≠ Fp12.zero := ⟨rfl, rfl, by decide +kernel⟩
theorem witness_PairIsFexpOfMiller : ready.initDone = true ∧ (0#4).toNat < 4 ∧ ready.readP 0 = .ok genP2 ∧
    ready.readQ 0 = .ok genP1 ∧ ready.f = some valueF ∧ millerByRule valueF genP2 genP1 = .ok millerP2P1 :=
  ⟨rfl, by decide, rfl, rfl, rfl, eq_ok_of_okValue test_miller_by_rule⟩
theorem powValue_pos (x : Fp12) (u : Bool) {k : Int} (h : 0 < k) : powValue x u k = .ok (powChain x u k.natAbs) := by
  rw [powValue, if_neg (by omega), if_neg (by omega)]

theorem witness_MemberComparesFrobenius : ready.initDone = true ∧ ready.readX 0 = .ok ⟨oneLimb 7 1, false, true⟩ ∧
    ready.f = some valueF ∧ oneLimb 7 1 ≠ Fp12.zero ∧ ready.readX 2 = .ok ⟨oneLimb 0 0, false, false⟩ ∧
    oneLimb 0 0 = Fp12.zero ∧ ∃ p1 p2 p3, powValue (oneLimb 7 1) false Config.t = .ok p1 ∧
      powValue p1 false Config.t = .ok p2 ∧ powValue p2 false 6 = .ok p3 :=
  ⟨rfl, rfl, rfl, by decide +kernel, rfl, by decide +kernel, _, _, _, powValue_pos _ _ (by norm_num [Config.t]),
    powValue_pos _ _ (by norm_num [Config.t]), powValue_pos _ _ (by norm_num)⟩
theorem witness_MemberTestsOrderN : ready.initDone = true ∧ ready.f = some frobeniusConstant ∧
    ready.readX 0 = .ok ⟨oneLimb 7 1, false, true⟩ ∧ oneLimb 7 1 ≠ Fp12.zero := ⟨rfl, rfl, rfl, by decide +kernel⟩
theorem witness_FailedCommandCommitsNothing : ∃ s t : State, s.latch = some ⟨0x00000013#32, 0⟩ ∧ s.err = none ∧
    step s = .next t ∧ t.err = some .notInit :=
  ⟨State.reset.withCommand 0x00000013#32, _, rfl, rfl, rfl, rfl⟩
theorem witness_EveryCommandEndsInDoneOrError : ready.err = none := rfl
theorem witness_ChecksComeInOrder : ¬ (Instr.stp 4).WellFormed ∧
    ((Instr.stp 3).WellFormed ∧ Instr.stp 3 ≠ .nop ∧ Instr.stp 3 ≠ .init ∧ State.reset.initDone = false) ∧
    ready.initDone = true ∧ ((Instr.pow 0 0 3).WellFormed ∧ RegRef.k 3 ∈ (Instr.pow 0 0 3).reads ∧ ready.written (.k 3) = false) ∧
    ((Instr.tag 15 0).WellFormed ∧ RegRef.x 15 ∈ (Instr.tag 15 0).reads ∧ ready.written (.x 15) = false) := by decide +kernel
theorem witness_OnlyDestinationRegisterChanges : ∃ t, exec (.set1 0) ready = .next t ∧
    (Instr.set1 0).writes ≠ some (.x 1) ∧ (Instr.set1 0).writes ≠ some (.p 0) ∧ (Instr.set1 0).writes ≠ some (.q 0) ∧
    (Instr.set1 0).writes ≠ some (.k 0) := ⟨_, rfl, by decide, by decide, by decide, by decide⟩
/-- The first unchanged byte of STP, of STX, and of a command that stores nothing. -/
theorem witness_OnlyStoredBytesChange : (∃ t, exec (.stp 1) ready = .next t) ∧ (Instr.stp 1).storedBytes ≤ 128 ∧
    (∃ t, exec (.stx 0) ready = .next t) ∧ (Instr.stx 0).storedBytes ≤ 384 ∧
    (∃ t, exec .nop ready = .next t) ∧ (Instr.nop).storedBytes ≤ 0 :=
  ⟨exec_next _ _, by decide, exec_next _ _, by decide, exec_next _ _, by decide⟩
theorem witness_FlagsChangeOnlyWhereNamed : ∃ t, exec (.set1 0) ready = .next t ∧ (Instr.set1 0).writesResult = false ∧
    Instr.set1 0 ≠ .init := ⟨_, rfl, rfl, by decide⟩

/-- A command of `ready` whose checks pass leaves ERR = 0. -/
theorem ready_completes {i : Instr} {d : RegIx} {v : Tagged} (h : Effect ready (ready.writeX d v) i) :
    ∃ t, exec i ready = .next t ∧ t.err = none := ⟨_, exec_of_effect h, rfl⟩

/-- For each row of the table of R156, operands with which a command of it completes. -/
theorem witness_TagsPropagateByTable : ready.err = none ∧
    (∃ t, exec (.mul 9 3 4) ready = .next t ∧ t.err = none) ∧ (∃ t, exec (.pow 9 3 1) ready = .next t ∧ t.err = none) ∧
    (∃ t, exec (.set1 15) ready = .next t ∧ t.err = none) ∧ (∃ t, exec (.ldx 9 3) ready = .next t ∧ t.err = none) ∧
    (∃ t, exec (.miller 9 0 0) ready = .next t ∧ t.err = none) ∧ (∃ t, exec (.fexp 9 3) ready = .next t ∧ t.err = none) :=
  ⟨rfl, ready_completes (i := .mul 9 3 4) ⟨rfl, _, _, rfl, rfl, rfl⟩,
    ready_completes (i := .pow 9 3 1) (d := 9) (v := Tagged.keep (oneLimb 11 1).conj ⟨oneLimb 11 1, true, false⟩)
      ⟨rfl, by decide, ⟨oneLimb 11 1, true, false⟩, ⟨true, 1#256⟩, _, rfl, rfl,
        eq_ok_of_okValue (by decide +kernel), rfl⟩,
    ready_completes (i := .set1 15) ⟨rfl, rfl⟩,
    ready_completes (i := .ldx 9 3) ⟨rfl, by decide, Fp12.zero, eq_ok_of_okValue (by decide +kernel), rfl⟩,
    ready_completes (i := .miller 9 0 0) (d := 9) (v := Tagged.miller millerP2P1) ⟨rfl, by decide, by decide, genP2, genP1,
      valueF, millerP2P1, rfl, rfl, rfl, millerValue_ready, rfl⟩,
    ready_completes (i := .fexp 9 3) ⟨rfl, _, rfl, by decide +kernel, rfl⟩⟩
theorem witness_CmdWriteAcceptsOrDiscards : State.reset.rstIn = false ∧ ready.rstIn = false ∧ ready.busy = true ∧
    ((ready.fail .range).rstIn = false ∧ (ready.fail .range).err.isSome = true) ∧
    (State.reset.busy = false ∧ State.reset.err = none) := ⟨rfl, rfl, rfl, ⟨rfl, rfl⟩, rfl, rfl⟩
theorem witness_StatusWriteClearsNamedBits : ready.rstIn = false ∧
    ((0xE#32).getLsbD 1 = true ∧ (0xE#32).getLsbD 2 = true ∧ (0xE#32).getLsbD 3 = true) ∧
    ((0x1#32).getLsbD 1 = false ∧ (0x1#32).getLsbD 2 = false ∧ (0x1#32).getLsbD 3 = false) := by decide +kernel
/-- Every error code. -/
theorem witness_StatusReadShowsFlags : ready.rstIn = false ∧ ready.err = none ∧
    ∀ c : ErrorCode, (ready.fail c).rstIn = false ∧ (ready.fail c).err = some c := ⟨rfl, rfl, fun _ => ⟨rfl, rfl⟩⟩
theorem witness_ResetAppliesTable : ready.rstIn = false ∧ (0x1#32).getLsbD 1 = false ∧ (0x3#32).getLsbD 1 = true := by
  decide +kernel
theorem witness_DataWordWriteReadsBack : State.reset.rstIn = false ∧ State.reset.busy = false ∧ State.reset.data.wf ∧ 95 < 96 := by
  decide
theorem witness_DataAccessWhileBusy : ready.rstIn = false ∧ ready.busy = true ∧ 95 < 96 := by decide +kernel
/-- The first and last words of each gap, and both forms of a bus error. -/
theorem witness_OtherAccessesChangeNothing : ready.rstIn = false ∧ (0x000 < 4096 ∧ 1 ≠ 4) ∧ (0xFFF < 4096 ∧ 0xFFF % 4 ≠ 0) ∧
    (0x014 % 4 = 0 ∧ 0x014 < 0x100) ∧ (0x0FC % 4 = 0 ∧ 0x014 ≤ 0x0FC ∧ 0x0FC < 0x100) ∧ (0x280 % 4 = 0 ∧ 0x280 ≤ 0x280) ∧
    (0xFFC < 4096 ∧ 0xFFC % 4 = 0) := by decide +kernel
theorem witness_ReadsHaveNoSideEffect :
    ∃ t, hostAct State.reset (.read (Config.engineBase + 0x100) 4) = .next t := by
  simp only [hostAct]
  rw [hostAccess_aligned _ rfl (by decide) (by decide)]
  exact ⟨_, rfl⟩
/-- The host idle and acting, with no command latched and with the shortest latency left. -/
theorem witness_StepStopsOnlyOnDisallowedHostAction : (State.reset.latch = none ∧ State.reset.host = []) ∧
    (∃ s : State, s.latch = none ∧ s.host = [.idle]) ∧
    (∃ s : State, s.latch = some ⟨0x00000000#32, 1⟩ ∧ s.host = []) ∧
    (∃ s : State, s.latch = some ⟨0x00000000#32, 1⟩ ∧ s.host = [.assertReset, .idle]) :=
  ⟨⟨rfl, rfl⟩, ⟨{ State.reset with host := [.idle] }, rfl, rfl⟩,
    ⟨{ State.reset with latch := some ⟨0x00000000#32, 1⟩ }, rfl, rfl⟩,
    ⟨{ State.reset with latch := some ⟨0x00000000#32, 1⟩, host := [.assertReset, .idle] }, rfl, rfl⟩⟩
theorem witness_StepKeepsInvariant : State.reset.Inv ∧ step State.reset = .next State.reset :=
  ⟨⟨by decide, by decide, by simp [State.reset], by decide, fun _ => ⟨rfl, rfl, rfl, rfl, rfl⟩, by decide, by decide, by decide⟩,
    rfl⟩

end Sys2Proof.Tests
end

section
/-! SUPPORT. The state family: what a command's effect may be and what it leaves alone, the engine step, the host's accesses to
CTRL, STATUS and CMD, and the invariant of the reachable states. -/

namespace Sys2Proof

/-! ## Decoding a packed word -/

theorem decode_packWord (op : Opcode) (d a b : RegIx) (i : Imm) : decode (packWord op d a b i) = decodeFields op d a b i := by
  simp [decode]

/-- The shape's checks of R122–R124 pass on the fields a legal command is packed from (30_encoding.md R126, R127). -/
theorem decode_encode {i : Instr} (h : i.WellFormed) : decode (encode i) = some i := by
  cases i <;>
    simp_all [Instr.WellFormed, Instr.wellFormed, encode, decode_packWord, decodeFields, Instr.opcode, legalIf,
      smallIndex_iff, tagsImm_iff, bitImm_iff]

end Sys2Proof

namespace Sys2Proof.Machine

/-! ## Points a command writes have the canonical form of 10_state.md R39 -/

theorem frobPoint_canonical (f : Fp2) (pt : G2Point) : (frobPoint f pt).Canonical := by
  unfold frobPoint
  split
  · exact fun _ => ⟨rfl, rfl⟩
  · intro h
    cases h

theorem loadG2_inf {m : Memory} {pt : G2Point} (h : loadG2 m = .ok pt) : pt.inf = false := by
  simp only [loadG2, bind_eq_ok, Except.ok.injEq] at h
  obtain ⟨_, -, _, -, _, -, _, -, rfl⟩ := h
  rfl

theorem loadG2OrInf_canonical {m : Memory} {i : Imm} {pt : G2Point} (h : loadG2OrInf m i = .ok pt) : pt.Canonical := by
  unfold loadG2OrInf at h
  split at h
  · cases h
    exact fun _ => ⟨rfl, rfl⟩
  · intro hinf
    rw [loadG2_inf h] at hinf
    cases hinf

/-! ## The forms an effect has -/

/-- The forms a command's effect `e` on `s` has, each with what it says of the command: the register it writes, the DATA bytes it
stores, whether it writes RESULT (10_state.md, who reads and writes what). -/
inductive EffectForm (s : State) (i : Instr) : State → Prop where
  | nothing (hi : i = .nop) : EffectForm s i s
  | init (hi : i = .init) : EffectForm s i { s with f := some frobeniusConstant, initDone := true }
  | writeX (d : RegIx) (v : Tagged) (hw : i.writes = some (.x d)) (hd : s.initDone = true) : EffectForm s i (s.writeX d v)
  | writeP (d : RegIx) (pt : G2Point) (hw : i.writes = some (.p d)) (hd : s.initDone = true) (hc : pt.Canonical) :
      EffectForm s i (s.writeP d pt)
  | writeQ (d : RegIx) (g : G1Point) (hw : i.writes = some (.q d)) (hd : s.initDone = true) : EffectForm s i (s.writeQ d g)
  | writeK (d : RegIx) (k : Exponent) (hw : i.writes = some (.k d)) (hd : s.initDone = true) : EffectForm s i (s.writeK d k)
  | storeX (x : Fp12) (hb : i.storedBytes = 384) (hd : s.initDone = true) : EffectForm s i (s.setData (storeFp12 s.data x))
  | storeP (pt : G2Point) (hb : i.storedBytes = 128) (hr : i.writesResult = true) (hd : s.initDone = true) :
      EffectForm s i ((s.setData (storeG2 s.data pt)).setResult pt.inf)
  | result (b : Bool) (hr : i.writesResult = true) (hd : s.initDone = true) : EffectForm s i (s.setResult b)

theorem effectForm_of_effect {s e : State} {i : Instr} (h : Effect s e i) : EffectForm s i e := by
  cases i with
  | nop => obtain rfl := h; exact .nothing rfl
  | init => obtain ⟨-, rfl⟩ := h; exact .init rfl
  | ldx d i => obtain ⟨hd, -, _, -, rfl⟩ := h; exact .writeX _ _ rfl hd
  | stx a => obtain ⟨hd, _, -, rfl⟩ := h; exact .storeX _ rfl hd
  | mov d a => obtain ⟨hd, _, -, rfl⟩ := h; exact .writeX _ _ rfl hd
  | set1 d => obtain ⟨hd, rfl⟩ := h; exact .writeX _ _ rfl hd
  | tag d i => obtain ⟨hd, -, _, -, rfl⟩ := h; exact .writeX _ _ rfl hd
  | eq a b => obtain ⟨hd, _, _, -, -, rfl⟩ := h; exact .result _ rfl hd
  | ldk d i => obtain ⟨hd, -, -, rfl⟩ := h; exact .writeK _ _ rfl hd
  | mul d a b => obtain ⟨hd, _, _, -, -, rfl⟩ := h; exact .writeX _ _ rfl hd
  | sqr d a => obtain ⟨hd, _, -, rfl⟩ := h; exact .writeX _ _ rfl hd
  | conj d a => obtain ⟨hd, _, -, rfl⟩ := h; exact .writeX _ _ rfl hd
  | inv d a => obtain ⟨hd, _, _, -, -, rfl⟩ := h; exact .writeX _ _ rfl hd
  | div d a b => obtain ⟨hd, _, _, _, -, -, -, rfl⟩ := h; exact .writeX _ _ rfl hd
  | frob d a i => obtain ⟨hd, _, _, -, -, rfl⟩ := h; exact .writeX _ _ rfl hd
  | pow d a b => obtain ⟨hd, -, _, _, _, -, -, -, rfl⟩ := h; exact .writeX _ _ rfl hd
  | ldp d i => obtain ⟨hd, -, -, _, hl, rfl⟩ := h; exact .writeP _ _ rfl hd (loadG2OrInf_canonical hl)
  | stp a => obtain ⟨hd, -, _, -, rfl⟩ := h; exact .storeP _ rfl rfl hd
  | ldq d => obtain ⟨hd, -, _, -, rfl⟩ := h; exact .writeQ _ _ rfl hd
  | frobp d a => obtain ⟨hd, -, -, _, _, -, -, rfl⟩ := h; exact .writeP _ _ rfl hd (frobPoint_canonical _ _)
  | miller d a b => obtain ⟨hd, -, -, _, _, _, _, -, -, -, -, rfl⟩ := h; exact .writeX _ _ rfl hd
  | fexp d a => obtain ⟨hd, _, -, -, rfl⟩ := h; exact .writeX _ _ rfl hd
  | pair d a b => obtain ⟨hd, -, -, _, _, _, _, -, -, -, -, rfl⟩ := h; exact .writeX _ _ rfl hd
  | member a => obtain ⟨hd, _, _, -, -, rfl⟩ := h; exact .result _ rfl hd

/-- No effect touches the handshake, the enable, the reset input or the host's side. -/
theorem EffectForm.frame {s e : State} {i : Instr} (h : EffectForm s i e) :
    e.err = s.err ∧ e.irqEn = s.irqEn ∧ e.ovr = s.ovr ∧ e.rstIn = s.rstIn ∧ e.host = s.host ∧ e.reply = s.reply ∧
      e.draws = s.draws := by
  cases h <;> simp

/-- RESULT is written by the commands that say so, F and INIT_DONE by INIT. -/
theorem EffectForm.result_f_initDone {s e : State} {i : Instr} (h : EffectForm s i e) :
    (i.writesResult = false → e.result = s.result) ∧ (i ≠ .init → e.f = s.f ∧ e.initDone = s.initDone) := by
  cases h with
  | init hi => exact ⟨fun _ => rfl, fun hne => absurd hi hne⟩
  | storeP pt _ hr | result b hr => simp [hr]
  | nothing | writeX | writeP | writeQ | writeK | storeX => simp

/-! ## The end of a command -/

/-- Settles O44: a command completes its effect, which keeps ERR = 0, or is the error entry. -/
theorem everyCommandEndsInDoneOrError : Obligations.EveryCommandEndsInDoneOrError := by
  intro i s herr
  obtain ⟨t, ht⟩ := exec_next i s
  refine ⟨t, ht, ?_⟩
  obtain ⟨e, heff, rfl⟩ | ⟨c, rfl⟩ := exec_cases ht
  · obtain ⟨heerr, -⟩ := (effectForm_of_effect heff).frame
    exact ⟨complete_busy e, .inl ⟨rfl, heerr.trans herr⟩⟩
  · exact ⟨fail_busy s c, .inr ⟨rfl, rfl⟩⟩

/-- Settles O48: by the form of the effect, and by the error entry, which touches none of these fields. -/
theorem flagsChangeOnlyWhereNamed : Obligations.FlagsChangeOnlyWhereNamed := by
  intro i s t ht
  obtain ⟨e, heff, rfl⟩ | ⟨c, rfl⟩ := exec_cases ht
  · have hform := effectForm_of_effect heff
    obtain ⟨hresult, hinit⟩ := hform.result_f_initDone
    obtain ⟨-, hframe⟩ := hform.frame
    exact ⟨hresult, hinit, hframe⟩
  · simp

/-! ## The engine step -/

/-- The engine step completes the effect of the latched word's command, or is the error entry. -/
theorem performWord_cases {w : Word} {s t : State} (h : performWord w s = .next t) :
    (∃ i e, Effect s e i ∧ t = e.complete) ∨ ∃ c, t = s.fail c := by
  unfold performWord at h
  split at h
  · next i _ => exact (exec_cases h).imp_left fun he => ⟨i, he⟩
  · rw [conclude_error, Host.Outcome.next.injEq] at h
    exact .inr ⟨.illegal, h.symm⟩

theorem performWord_next (w : Word) (s : State) : ∃ t, performWord w s = .next t := by
  unfold performWord
  split
  · exact exec_next _ s
  · exact conclude_next s _

theorem performWord_ends (w : Word) (s : State) :
    ∃ t, performWord w s = .next t ∧ t.busy = false ∧ (t.done = true ∨ t.err.isSome = true) := by
  obtain ⟨t, ht⟩ := performWord_next w s
  refine ⟨t, ht, ?_⟩
  obtain ⟨i, e, -, rfl⟩ | ⟨c, rfl⟩ := performWord_cases ht
  · exact ⟨complete_busy e, .inl rfl⟩
  · exact ⟨fail_busy s c, .inr rfl⟩

/-! ## Steps -/

/-- Settles O6: a due step performs the latched word. -/
theorem stepPerformsLatchedCommand : Obligations.StepPerformsLatchedCommand := by
  intro s w i hl hdec
  rw [step_of_due hl, performWord, hdec]

/-- Settles O7, from O6 and `decode_encode`: a legal command's word fits the table's 32 bits. -/
theorem fetchWordRunsNext : Obligations.FetchWordRunsNext := by
  intro s i hi
  have hlt : (encode i).toNat < 2 ^ 32 := (encode i).isLt
  have hword : BitVec.ofNat 32 ((encode i).toNat % 2 ^ 32) = encode i := by
    rw [Nat.mod_eq_of_lt hlt, BitVec.ofNat_toNat, BitVec.setWidth_eq]
  refine ⟨stepPerformsLatchedCommand _ (encode i) i ?_ (decode_encode hi), ?_⟩
  · rw [State.withFetchWord, hword, State.withCommand_latch]
  · simp only [decodeTableWord, hword]
    rw [if_pos (Nat.mod_lt _ (by decide)), decode_encode hi]

/-- Settles O8, by induction on the latency left. -/
theorem acceptedCommandFinishes : Obligations.AcceptedCommandFinishes := by
  intro s w n
  induction n generalizing s with
  | zero =>
    intro hl _
    obtain ⟨t, ht, hend⟩ := performWord_ends w s
    exact ⟨t, run_succ ((step_of_due hl).trans ht), hend⟩
  | succ n ih =>
    intro hl hh
    have htick : s.tick.host = [] := (State.tick_host s).trans hh
    have hstep : step s = .next s.tick := (step_of_waiting hl).trans (hostStep_nil htick)
    obtain ⟨t, ht, hend⟩ := ih s.tick (by simp [State.tick_latch, hl]) htick
    exact ⟨t, (run_succ hstep).trans ht, hend⟩

/-! ## Host accesses -/

/-- An access that goes on found the reset input released, and did what the register named by an aligned offset does, or was a bus
error. -/
theorem hostAccess_eq_next {s t : State} {addr size : Nat} {go : WindowReg → State} (h : hostAccess s addr size go = .next t) :
    s.rstIn = false ∧ ((∃ off, off % 4 = 0 ∧ t = go (windowReg off)) ∨ t = { s with reply := .busError }) := by
  obtain ⟨he, -⟩ | ⟨he, -⟩ | ⟨hr, -, off, ha, he⟩ | ⟨hr, -, he⟩ := hostAccess_cases s addr size go <;> rw [he] at h
  · cases h
  · cases h
  · cases h
    exact ⟨hr, .inl ⟨off, ha, rfl⟩⟩
  · cases h
    exact ⟨hr, .inr rfl⟩

theorem hostAct_read (s : State) (addr size : Nat) :
    hostAct s (.read addr size) = hostAccess s addr size fun r => hostRead s r := rfl

theorem hostAct_write (s : State) (addr size : Nat) (v : Word) :
    hostAct s (.write addr size v) = hostAccess s addr size fun r => hostWrite s r v := rfl

/-- A read changes the answer and the draw counter alone. -/
theorem hostRead_eq (s : State) (r : WindowReg) : ∃ a n, hostRead s r = { s with reply := a, draws := n } := by
  cases r with
  | dataWord off =>
    simp only [hostRead]
    split <;> exact ⟨_, _, rfl⟩
  | id | ctrl | status | cmd | errcmd | reserved => exact ⟨_, _, rfl⟩

/-- A word read of the register at offset `off`. -/
theorem hostAct_readWord {s : State} {off : Nat} (hr : s.rstIn = false) (ho : off < 4096) (ha : off % 4 = 0) :
    hostAct s (.read (Config.engineBase + off) 4) = .next (hostRead s (windowReg off)) := by
  rw [hostAct_read, hostAccess_aligned _ hr ho ha]

/-- A word write of the register at offset `off`. -/
theorem hostAct_writeWord {s : State} {off : Nat} (hr : s.rstIn = false) (ho : off < 4096) (ha : off % 4 = 0) (v : Word) :
    hostAct s (.write (Config.engineBase + off) 4 v) = .next { s.writeReg (windowReg off) v with reply := .written } := by
  rw [hostAct_write, hostAccess_aligned _ hr ho ha, hostWrite]

/-! ## CMD, STATUS and CTRL -/

theorem writeCmd_of_blocked {s : State} (c : Word) (h : s.busy = true ∨ s.err.isSome = true) :
    s.writeCmd c = { s with ovr := true } := by
  rw [State.writeCmd, if_pos (by simpa using h)]

theorem writeCmd_of_free {s : State} (c : Word) (hb : s.busy = false) (he : s.err = none) :
    s.writeCmd c = { s with latch := some ⟨c, Config.latency c s.draws⟩, done := false, draws := s.draws + 1 } := by
  rw [State.writeCmd, if_neg (by simp [hb, he])]

/-- Settles O50: the two cases of a CMD write. -/
theorem cmdWriteAcceptsOrDiscards : Obligations.CmdWriteAcceptsOrDiscards := by
  intro s c hr
  rw [hostAct_writeWord hr (by decide) (by decide), windowReg_cmd]
  simp only [State.writeReg]
  refine ⟨fun hblocked => ?_, fun hb he => ?_⟩
  · rw [writeCmd_of_blocked c hblocked]
  · rw [writeCmd_of_free c hb he]

/-- Settles O51: field by field, what `writeStatus` leaves. -/
theorem statusWriteClearsNamedBits : Obligations.StatusWriteClearsNamedBits := by
  intro s v hr
  refine ⟨_, hostAct_writeWord hr (by decide) (by decide) v, rfl, ?_⟩
  simp +contextual [State.writeReg, State.errcode]

theorem errcode_of_none {s : State} (h : s.err = none) : s.errcode = 0#8 := by
  simp [State.errcode, h]

theorem errcode_of_some {s : State} {c : ErrorCode} (h : s.err = some c) : s.errcode = c.number := by
  simp [State.errcode, h]

theorem statusWord_errcode (s : State) : s.statusWord.extractLsb' 8 8 = s.errcode := by
  refine BitVec.eq_of_getLsbD_eq fun n hn => ?_
  simp only [State.statusWord, BitVec.getLsbD_extractLsb', BitVec.getLsbD_append]
  rw [if_pos (by omega), if_neg (by omega)]
  simp [hn]

theorem statusWord_upper (s : State) : s.statusWord.extractLsb' 16 16 = 0#16 := by
  refine BitVec.eq_of_getLsbD_eq fun n hn => ?_
  simp only [State.statusWord, BitVec.getLsbD_extractLsb', BitVec.getLsbD_append]
  rw [if_neg (by omega)]
  simp

/-- The low byte of STATUS, bit by bit (10_state.md R48–R52). -/
theorem statusWord_bits (s : State) :
    s.statusWord.getLsbD 0 = s.busy ∧ s.statusWord.getLsbD 1 = s.done ∧ s.statusWord.getLsbD 2 = s.err.isSome ∧
      s.statusWord.getLsbD 3 = s.ovr ∧ s.statusWord.getLsbD 4 = s.initDone ∧ s.statusWord.getLsbD 5 = s.result ∧
      s.statusWord.getLsbD 6 = false ∧ s.statusWord.getLsbD 7 = false := by
  simp only [State.statusWord, BitVec.getLsbD_append]
  simp

/-- Every bit of CTRL (10_state.md R47). -/
theorem ctrlWord_bits (s : State) :
    s.ctrlWord.getLsbD 0 = s.irqEn ∧ s.ctrlWord.getLsbD 1 = false ∧ s.ctrlWord.extractLsb' 2 30 = 0#30 := by
  refine ⟨?_, ?_, BitVec.eq_of_getLsbD_eq fun n hn => ?_⟩
  all_goals simp only [State.ctrlWord, BitVec.getLsbD_extractLsb', BitVec.getLsbD_append]
  · simp
  · simp
  · rw [if_neg (by omega)]
    simp

/-- Settles O52: the bits of the two words a read of STATUS and of CTRL answers. -/
theorem statusReadShowsFlags : Obligations.StatusReadShowsFlags := by
  intro s hr
  obtain ⟨hbusy, hdone, herr, hovr, hinit, hresult, hsix, hseven⟩ := statusWord_bits s
  exact ⟨⟨s.statusWord, hostAct_readWord hr (by decide) (by decide), hbusy, hdone, herr, hovr, hinit, hresult, hsix, hseven,
    statusWord_errcode s, statusWord_upper s⟩, errcode_of_none, errcode_of_some, errcode_of_some, errcode_of_some,
    errcode_of_some, errcode_of_some, errcode_of_some, errcode_of_some, rfl, s.ctrlWord,
    hostAct_readWord hr (by decide) (by decide), ctrlWord_bits s⟩

/-! ## Reset -/

theorem isSome_replicate_none {α : Type} (n j : Nat) :
    ((Vector.replicate n (none : Option α))[j]?.getD none).isSome = false := by
  rw [Vector.getElem?_replicate]
  split <;> rfl

theorem written_reset (r : RegRef) : State.reset.written r = false := by
  cases r <;> exact isSome_replicate_none _ _

theorem writeCtrl_of_not_softReset {s : State} {v : Word} (h : v.getLsbD 1 = false) :
    s.writeCtrl v = { s with irqEn := v.getLsbD 0 } := by
  simp only [State.writeCtrl, h, Bool.false_eq_true, ↓reduceIte]

theorem writeCtrl_of_softReset {s : State} {v : Word} (h : v.getLsbD 1 = true) : s.writeCtrl v = s.applyReset := by
  simp only [State.writeCtrl, h, ↓reduceIte]
  rfl

theorem applyReset_of_released {s : State} (h : s.rstIn = false) :
    s.applyReset = { State.reset with host := s.host, reply := s.reply, draws := s.draws } := by
  simp [State.applyReset, h]

/-- Settles O53: a soft reset while the reset input is released gives the state of R340, and so does its assertion. -/
theorem resetAppliesTable : Obligations.ResetAppliesTable := by
  intro s v hr
  rw [hostAct_writeWord hr (by decide) (by decide), windowReg_ctrl]
  simp only [State.writeReg]
  refine ⟨fun hv => ?_, fun hv => ?_, rfl, rfl, rfl, rfl, rfl, written_reset, fun _ => rfl, rfl⟩
  · rw [writeCtrl_of_not_softReset hv]
  · rw [writeCtrl_of_softReset hv, applyReset_of_released hr]

/-! ## The two halves of the invariant -/

/-- The half of the invariant that speaks of the registers, F, DATA and RESULT alone. -/
def State.ContentsOk (s : State) : Prop :=
  s.data.wf ∧ s.data.inData ∧ (∀ pt, some pt ∈ s.p.toList → pt.Canonical) ∧
    s.f = (if s.initDone then some frobeniusConstant else none) ∧
    (s.initDone = false → s.x = Vector.replicate 16 none ∧ s.p = Vector.replicate 4 none ∧ s.q = Vector.replicate 4 none ∧
      s.k = Vector.replicate 4 none ∧ s.result = false)

/-- The half that speaks of BUSY, DONE and ERR alone. -/
def State.HandshakeOk (s : State) : Prop :=
  (s.busy = true → s.done = false ∧ s.err = none) ∧ (s.done = true → s.err = none)

theorem State.Inv.contentsOk {s : State} (h : s.Inv) : s.ContentsOk :=
  ⟨h.memoryCanonical, h.memoryInData, h.pointsCanonical, h.frobenius, h.beforeInit⟩

theorem State.Inv.handshakeOk {s : State} (h : s.Inv) : s.HandshakeOk := ⟨h.busyClear, h.doneOrErr⟩

/-- With the reset input released the two halves are the whole invariant. -/
theorem inv_of_released {s : State} (hr : s.rstIn = false) (hc : s.ContentsOk) (hh : s.HandshakeOk) : s.Inv := by
  obtain ⟨hwf, hin, hpts, hf, hinit⟩ := hc
  exact ⟨hwf, hin, hpts, hf, hinit, hh.1, hh.2, fun h => absurd (hr.symm.trans h) (by decide)⟩

/-- No command is latched while the reset input is asserted. -/
theorem State.Inv.rstIn_of_latch {s : State} {l : Pending} (h : s.Inv) (hl : s.latch = some l) : s.rstIn = false := by
  cases hr : s.rstIn with
  | false => rfl
  | true =>
    have hn : s.latch = none := congrArg State.latch (h.inReset hr)
    rw [hl] at hn
    cases hn

theorem contentsOk_reset : State.reset.ContentsOk := by
  refine ⟨by decide, by decide, ?_, rfl, fun _ => ⟨rfl, rfl, rfl, rfl, rfl⟩⟩
  simp

theorem handshakeOk_reset : State.reset.HandshakeOk := ⟨fun hb => (by cases hb), fun hd => (by cases hd)⟩

/-! ## The engine step keeps the invariant -/

/-- With INIT_DONE = 1 the registers, the G2 points apart, and RESULT may hold anything. -/
theorem State.ContentsOk.of_initDone {s e : State} (hc : s.ContentsOk) (hd : s.initDone = true) (hdata : e.data = s.data)
    (hf : e.f = s.f) (hi : e.initDone = s.initDone) (hp : ∀ pt, some pt ∈ e.p.toList → pt.Canonical) : e.ContentsOk := by
  obtain ⟨hwf, hin, -, hfrob, -⟩ := hc
  exact ⟨hdata ▸ hwf, hdata ▸ hin, hp, by rw [hf, hi, hfrob], fun h => absurd ((hi.trans hd).symm.trans h) (by decide)⟩

theorem State.ContentsOk.setData {s : State} {m : Memory} (hc : s.ContentsOk) (hwf : m.wf) (hin : m.inData) :
    (s.setData m).ContentsOk := by
  obtain ⟨-, -, hrest⟩ := hc
  exact ⟨hwf, hin, hrest⟩

theorem EffectForm.contentsOk {s e : State} {i : Instr} (h : EffectForm s i e) (hc : s.ContentsOk) : e.ContentsOk := by
  have ⟨hwf, hin, hpts, _, _⟩ := hc
  cases h with
  | nothing => exact hc
  | init => exact ⟨hwf, hin, hpts, rfl, fun h => by cases h⟩
  | writeX d v _ hd => exact hc.of_initDone hd rfl rfl rfl hpts
  | writeP d pt _ hd hpt =>
    refine hc.of_initDone hd rfl rfl rfl fun pt' hmem => ?_
    obtain heq | hold := mem_fileWrite hmem
    · cases heq
      exact hpt
    · exact hpts _ hold
  | writeQ d g _ hd => exact hc.of_initDone hd rfl rfl rfl hpts
  | writeK d k _ hd => exact hc.of_initDone hd rfl rfl rfl hpts
  | storeX x => exact hc.setData (wf_storeFp12 hwf x) (inData_storeFp12 hin x)
  | storeP pt _ _ hd =>
    exact (hc.setData (wf_storeG2 hwf pt) (inData_storeG2 hin pt)).of_initDone hd rfl rfl rfl hpts
  | result b _ hd => exact hc.of_initDone hd rfl rfl rfl hpts

theorem performWord_keeps_inv {w : Word} {s t : State} {l : Pending} (h : s.Inv) (hl : s.latch = some l)
    (ht : performWord w s = .next t) : t.Inv := by
  have hr := h.rstIn_of_latch hl
  obtain ⟨hdone, herr⟩ := h.busyClear (by simp [State.busy, hl])
  obtain ⟨i, e, heff, rfl⟩ | ⟨c, rfl⟩ := performWord_cases ht
  · have hform := effectForm_of_effect heff
    obtain ⟨heerr, -, -, herst, -⟩ := hform.frame
    exact inv_of_released (herst.trans hr) (hform.contentsOk h.contentsOk)
      ⟨fun hb => (by cases hb), fun _ => heerr.trans herr⟩
  · exact inv_of_released hr h.contentsOk
      ⟨fun hb => (by cases hb), fun hd => by rw [State.fail_done, hdone] at hd; cases hd⟩

/-! ## The host's part keeps the invariant -/

theorem writeCtrl_keeps_inv {s : State} (h : s.Inv) (hr : s.rstIn = false) (v : Word) : (s.writeCtrl v).Inv := by
  cases hv : v.getLsbD 1 with
  | false =>
    rw [writeCtrl_of_not_softReset hv]
    exact inv_of_released hr h.contentsOk h.handshakeOk
  | true =>
    rw [writeCtrl_of_softReset hv]
    exact inv_of_released hr contentsOk_reset handshakeOk_reset

theorem writeStatus_keeps_inv {s : State} (h : s.Inv) (hr : s.rstIn = false) (v : Word) : (s.writeStatus v).Inv := by
  have hnone : s.err = none → (s.writeStatus v).err = none := fun he => by simp [he]
  refine inv_of_released hr h.contentsOk ⟨fun hb => ?_, fun hd => ?_⟩
  · obtain ⟨hdone, herr⟩ := h.busyClear hb
    exact ⟨by simp [hdone], hnone herr⟩
  · rw [State.writeStatus_done, Bool.and_eq_true] at hd
    exact hnone (h.doneOrErr hd.1)

theorem writeCmd_keeps_inv {s : State} (h : s.Inv) (hr : s.rstIn = false) (c : Word) : (s.writeCmd c).Inv := by
  by_cases hblocked : s.busy = true ∨ s.err.isSome = true
  · rw [writeCmd_of_blocked c hblocked]
    exact inv_of_released hr h.contentsOk h.handshakeOk
  · obtain ⟨hb, he⟩ : s.busy = false ∧ s.err = none := by simpa using hblocked
    rw [writeCmd_of_free c hb he]
    exact inv_of_released hr h.contentsOk ⟨fun _ => ⟨rfl, he⟩, fun _ => he⟩

theorem writeDataWord_keeps_inv {s : State} (h : s.Inv) (hr : s.rstIn = false) {off : Nat} (ho : off + 4 ≤ 384) (v : Word) :
    (s.writeDataWord off v).Inv := by
  unfold State.writeDataWord
  split
  · exact inv_of_released hr h.contentsOk h.handshakeOk
  · exact inv_of_released hr (h.contentsOk.setData (Memory.wf_writeNat h.memoryCanonical _ _ _)
      (Memory.inData_writeNat h.memoryInData ho _)) h.handshakeOk

theorem writeReg_keeps_inv {s : State} (h : s.Inv) (hr : s.rstIn = false) {off : Nat} (ha : off % 4 = 0) (v : Word) :
    (s.writeReg (windowReg off) v).Inv := by
  cases hreg : windowReg off with
  | ctrl => exact writeCtrl_keeps_inv h hr v
  | status => exact writeStatus_keeps_inv h hr v
  | cmd => exact writeCmd_keeps_inv h hr v
  | dataWord o =>
    obtain ⟨rfl, ho⟩ := windowReg_data hreg
    exact writeDataWord_keeps_inv h hr (by omega) v
  | id | errcmd | reserved => exact h

/-- The answer and the draw counter are no part of the invariant. -/
theorem State.Inv.answered {s : State} (h : s.Inv) (a : Reply) (n : Nat) : State.Inv { s with reply := a, draws := n } :=
  ⟨h.memoryCanonical, h.memoryInData, h.pointsCanonical, h.frobenius, h.beforeInit, h.busyClear, h.doneOrErr,
    fun hr => congrArg (fun u : State => { u with reply := a, draws := n }) (h.inReset hr)⟩

/-- Nor are the host's pending actions. -/
theorem State.Inv.withHost {s : State} (h : s.Inv) (acts : List HostAction) : State.Inv { s with host := acts } :=
  ⟨h.memoryCanonical, h.memoryInData, h.pointsCanonical, h.frobenius, h.beforeInit, h.busyClear, h.doneOrErr,
    fun hr => congrArg (fun u : State => { u with host := acts }) (h.inReset hr)⟩

theorem hostAct_keeps_inv {s t : State} {act : HostAction} (h : s.Inv) (ht : hostAct s act = .next t) : t.Inv := by
  cases act with
  | idle => cases ht; exact h
  | read addr size =>
    rw [hostAct_read] at ht
    obtain ⟨-, ⟨off, -, rfl⟩ | rfl⟩ := hostAccess_eq_next ht
    · obtain ⟨a, n, he⟩ := hostRead_eq s (windowReg off)
      rw [he]
      exact h.answered a n
    · exact h.answered .busError s.draws
  | write addr size v =>
    rw [hostAct_write] at ht
    obtain ⟨hr, ⟨off, ha, rfl⟩ | rfl⟩ := hostAccess_eq_next ht
    · exact (writeReg_keeps_inv h hr ha v).answered .written _
    · exact h.answered .busError s.draws
  | assertReset =>
    cases ht
    obtain ⟨hwf, hin, hpts, hf, hinit⟩ := contentsOk_reset
    obtain ⟨hbusy, hdone⟩ := handshakeOk_reset
    exact ⟨hwf, hin, hpts, hf, hinit, hbusy, hdone, fun _ => rfl⟩
  | releaseReset => cases ht; exact inv_of_released rfl h.contentsOk h.handshakeOk

theorem tick_keeps_inv {s : State} (h : s.Inv) : s.tick.Inv := by
  unfold State.tick
  split
  · next l hl =>
    exact inv_of_released (h.rstIn_of_latch hl) h.contentsOk
      ⟨fun _ => h.busyClear (by simp [State.busy, hl]), h.doneOrErr⟩
  · exact h

theorem hostStep_keeps_inv {s t : State} (h : s.Inv) (ht : hostStep s = .next t) : t.Inv := by
  cases hh : s.host with
  | nil =>
    rw [hostStep_nil hh] at ht
    cases ht
    exact h
  | cons act rest =>
    rw [hostStep_cons hh] at ht
    exact hostAct_keeps_inv (h.withHost rest) ht

/-- Settles O59: the engine step keeps the two halves of the invariant by the form of the command's effect, the host's part by
the register it writes. -/
theorem stepKeepsInvariant : Obligations.StepKeepsInvariant := by
  intro s t h ht
  match hl : s.latch with
  | some ⟨w, 0⟩ =>
    rw [step_of_due hl] at ht
    exact performWord_keeps_inv h hl ht
  | some ⟨w, n + 1⟩ =>
    rw [step_of_waiting hl] at ht
    exact hostStep_keeps_inv (tick_keeps_inv h) ht
  | none =>
    rw [step_of_idle hl] at ht
    exact hostStep_keeps_inv h ht

end Sys2Proof.Machine
end

section
/-! SUPPORT. The memory family: the bytes of a stored number, host accesses to DATA and to the words that take no write, and which
steps go on. -/

namespace Sys2Proof.Machine

/-! ## The bytes of a stored number (20_memory.md R84, R85) -/

/-- Byte `i` of the `n`-byte big-endian form of `v`. -/
theorem Memory.read_writeNat_inside {m : Memory} (hm : m.wf) (off v : Nat) {n i : Nat} (h : i < n) :
    (m.writeNat off n v).read (off + i) = BitVec.ofNat 8 (v / 256 ^ (n - 1 - i)) := by
  induction n generalizing v with
  | zero => omega
  | succ n ih =>
    unfold Memory.writeNat
    rcases Nat.lt_succ_iff_lt_or_eq.mp h with hlt | rfl
    · rw [Memory.read_write_other _ (by omega), ih _ hlt, Nat.div_div_eq_div_mul, ← Nat.pow_succ',
        show (n - 1 - i).succ = n + 1 - 1 - i by omega]
    · rw [Memory.read_write_same (Memory.wf_writeNat hm _ _ _)]
      simp

/-- The digit of a word in base 256 at place `j` is its byte from bit `8 * j` on. -/
theorem ofNat_div_eq_extractLsb' (v : Word) (j : Nat) : BitVec.ofNat 8 (v.toNat / 256 ^ j) = v.extractLsb' (8 * j) 8 := by
  refine BitVec.eq_of_toNat_eq ?_
  rw [BitVec.toNat_ofNat, BitVec.extractLsb'_toNat, Nat.shiftRight_eq_div_pow, Nat.pow_mul]

/-- Byte `i` of a stored word, most significant first. -/
theorem Memory.read_writeNat_word {m : Memory} (hm : m.wf) (off : Nat) (v : Word) {i : Nat} (h : i < 4) :
    (m.writeNat off 4 v.toNat).read (off + i) = v.extractLsb' (8 * (3 - i)) 8 := by
  rw [Memory.read_writeNat_inside hm off _ h, ofNat_div_eq_extractLsb']

/-- A stored word reads back. -/
theorem ofNat_readNat_writeNat_word {m : Memory} (hm : m.wf) (off : Nat) (v : Word) :
    BitVec.ofNat 32 ((m.writeNat off 4 v.toNat).readNat off 4) = v := by
  have hlt : v.toNat < 256 ^ 4 := v.isLt
  rw [Memory.readNat_writeNat_same hm, Nat.mod_eq_of_lt hlt, BitVec.ofNat_toNat, BitVec.setWidth_eq]

/-! ## DATA words (20_memory.md R84, R88) -/

theorem writeDataWord_of_free {s : State} (off : Nat) (v : Word) (h : s.busy = false) :
    s.writeDataWord off v = { s with data := s.data.writeNat off 4 v.toNat } := by
  simp [State.writeDataWord, h, State.setData]

theorem writeDataWord_of_busy {s : State} (off : Nat) (v : Word) (h : s.busy = true) :
    s.writeDataWord off v = { s with ovr := true } := by
  rw [State.writeDataWord, if_pos h]

theorem hostRead_dataWord_of_free {s : State} (off : Nat) (h : s.busy = false) :
    hostRead s (.dataWord off) = { s with reply := .data (s.dataWord off) } := by
  simp [hostRead, h]

theorem hostRead_dataWord_of_busy {s : State} (off : Nat) (h : s.busy = true) :
    hostRead s (.dataWord off) = { s with reply := .data (Config.busyDataRead s.draws), draws := s.draws + 1 } := by
  rw [hostRead, if_pos h]

/-- A word write of the DATA word `k`. -/
theorem hostAct_writeData {s : State} {k : Nat} (hr : s.rstIn = false) (hk : k < 96) (v : Word) :
    hostAct s (.write (Config.engineBase + (0x100 + 4 * k)) 4 v) =
      .next { s.writeDataWord (4 * k) v with reply := .written } := by
  rw [hostAct_writeWord hr (by omega) (by omega), windowReg_dataWord hk, State.writeReg]

/-- A word read of the DATA word `k`. -/
theorem hostAct_readData {s : State} {k : Nat} (hr : s.rstIn = false) (hk : k < 96) :
    hostAct s (.read (Config.engineBase + (0x100 + 4 * k)) 4) = .next (hostRead s (.dataWord (4 * k))) := by
  rw [hostAct_readWord hr (by omega) (by omega), windowReg_dataWord hk]

/-- Settles O54: the memory after the write is the four-byte store, read back byte by byte and as a word. -/
theorem dataWordWriteReadsBack : Obligations.DataWordWriteReadsBack := by
  intro s k v hr hb hm hk
  have hbyte {i : Nat} (hi : i < 4) := Memory.read_writeNat_word hm (4 * k) v hi
  refine ⟨s.data.writeNat (4 * k) 4 v.toNat, ?_, hbyte (i := 0) (by decide), hbyte (i := 1) (by decide),
    hbyte (i := 2) (by decide), hbyte (i := 3) (by decide), fun o ho => Memory.read_writeNat_other _ ho, ?_⟩
  · rw [hostAct_writeData hr hk, writeDataWord_of_free _ _ hb]
  · have hread := hostAct_readData (s := { s with data := s.data.writeNat (4 * k) 4 v.toNat }) hr hk
    rwa [hostRead_dataWord_of_free _ (by exact hb), State.dataWord, ofNat_readNat_writeNat_word hm] at hread

/-- Settles O55: the BUSY = 1 branch of a DATA write and of a DATA read. -/
theorem dataAccessWhileBusy : Obligations.DataAccessWhileBusy := by
  intro s k v hr hb hk
  refine ⟨?_, Config.busyDataRead s.draws, ?_⟩
  · rw [hostAct_writeData hr hk, writeDataWord_of_busy _ _ hb]
  · rw [hostAct_readData hr hk, hostRead_dataWord_of_busy _ hb]

/-! ## Accesses that change nothing (20_memory.md R83, R89; 10_state.md R46, R53–R55) -/

/-- Offsets in the gap below DATA and above it name no register. -/
theorem windowReg_reserved {off : Nat} (h : (0x014 ≤ off ∧ off < 0x100) ∨ 0x280 ≤ off) : windowReg off = .reserved := by
  unfold windowReg
  rw [if_neg (by omega), if_neg (by omega), if_neg (by omega), if_neg (by omega), if_neg (by omega), if_neg (by omega)]

/-- Settles O56: a bus error by the access's width or offset, else by the register at the offset. -/
theorem otherAccessesChangeNothing : Obligations.OtherAccessesChangeNothing := by
  intro s off size v hr ho
  refine ⟨fun hbad => ?_, fun ha hgap => ?_, ?_, ?_, ?_⟩
  · rw [hostAct_read, hostAct_write]
    exact ⟨hostAccess_busError _ hr ho hbad, hostAccess_busError _ hr ho hbad⟩
  · rw [hostAct_readWord hr ho ha, hostAct_writeWord hr ho ha, windowReg_reserved hgap]
    exact ⟨rfl, rfl⟩
  · rintro rfl
    exact ⟨hostAct_readWord hr ho rfl, hostAct_writeWord hr ho rfl v⟩
  · rintro rfl
    exact ⟨hostAct_readWord hr ho rfl, hostAct_writeWord hr ho rfl v⟩
  · rintro rfl
    exact hostAct_readWord hr ho rfl

/-- Settles O57: a read that goes on is a register's read, which changes the answer and the draw counter alone, or a bus error. -/
theorem readsHaveNoSideEffect : Obligations.ReadsHaveNoSideEffect := by
  intro s t addr size ht
  rw [hostAct_read] at ht
  obtain ⟨-, ⟨off, -, rfl⟩ | rfl⟩ := hostAccess_eq_next ht
  · obtain ⟨a, n, he⟩ := hostRead_eq s (windowReg off)
    rw [he]
  · rfl

/-! ## Which steps go on (20_memory.md host interface table, R87, R93) -/

/-- An access goes on iff its address is in the window and the reset input is released. -/
theorem hostAccess_next_iff (s : State) (addr size : Nat) (go : WindowReg → State) :
    (∃ t, hostAccess s addr size go = .next t) ↔ inWindow addr ∧ s.rstIn = false := by
  obtain ⟨he, hr⟩ | ⟨he, -, hw⟩ | ⟨hr, hw, off, -, he⟩ | ⟨hr, hw, he⟩ := hostAccess_cases s addr size go
  · simp [he, hr]
  · simp [he, hw]
  · exact iff_of_true ⟨_, he⟩ ⟨hw, hr⟩
  · exact iff_of_true ⟨_, he⟩ ⟨hw, hr⟩

theorem hostAct_next_iff (s : State) (act : HostAction) : (∃ t, hostAct s act = .next t) ↔ act.Allowed s := by
  cases act with
  | read addr size => rw [hostAct_read, hostAccess_next_iff, HostAction.Allowed]
  | write addr size v => rw [hostAct_write, hostAccess_next_iff, HostAction.Allowed]
  | idle | assertReset | releaseReset => exact iff_of_true ⟨_, rfl⟩ trivial

/-- Only the reset input's level decides, beside the action, whether it is allowed. -/
theorem HostAction.allowed_congr {s s' : State} (act : HostAction) (h : s'.rstIn = s.rstIn) :
    act.Allowed s' ↔ act.Allowed s := by
  cases act <;> simp [HostAction.Allowed, h]

theorem hostStep_next_iff (s : State) : (∃ t, hostStep s = .next t) ↔ ∀ act, s.host.head? = some act → act.Allowed s := by
  cases hh : s.host with
  | nil => simp [hostStep_nil hh]
  | cons act rest =>
    have hsame := HostAction.allowed_congr (s := s) (s' := { s with host := rest }) act rfl
    simp [hostStep_cons hh, hostAct_next_iff, hsame]

theorem engineDue_iff (s : State) : s.engineDue = true ↔ ∃ w, s.latch = some ⟨w, 0⟩ := by
  match hl : s.latch with
  | none => simp [State.engineDue, hl]
  | some ⟨w, n⟩ => simp [State.engineDue, hl]

theorem step_of_not_due {s : State} (h : s.engineDue = false) : step s = hostStep s.tick := by
  simp [step, h]

/-- The engine step always goes on, and the host's part does iff its next action is allowed. -/
theorem safeStep_iff (s : State) :
    s.SafeStep ↔ s.engineDue = true ∨ ∀ act, s.host.head? = some act → act.Allowed s := by
  cases hd : s.engineDue with
  | true =>
    obtain ⟨w, hl⟩ := (engineDue_iff s).mp hd
    obtain ⟨t, ht⟩ := performWord_next w s
    exact iff_of_true ⟨t, (step_of_due hl).trans ht⟩ (.inl rfl)
  | false =>
    rw [State.SafeStep, step_of_not_due hd, hostStep_next_iff]
    simp [HostAction.allowed_congr _ (State.tick_rstIn s)]

theorem tick_of_latch {s : State} {w : Word} {n : Nat} (h : s.latch = some ⟨w, n + 1⟩) :
    s.tick = { s with latch := some ⟨w, n⟩ } := by
  simp [State.tick, h]

/-- Settles O58: `safeStep_iff`, and the host's part of a step with and without a latched command. -/
theorem stepStopsOnlyOnDisallowedHostAction : Obligations.StepStopsOnlyOnDisallowedHostAction := by
  intro s
  refine ⟨safeStep_iff s, engineDue_iff s, fun hl hh => ?_, fun act rest hl hh => ?_, fun w n hl hh => ?_,
    fun w n act rest hl hh => ?_⟩
  · rw [step_of_idle hl, hostStep_nil hh]
  · rw [step_of_idle hl, hostStep_cons hh]
  · rw [step_of_waiting hl, tick_of_latch hl]
    exact hostStep_nil hh
  · rw [step_of_waiting hl, tick_of_latch hl]
    exact hostStep_cons hh

end Sys2Proof.Machine
end

section
/-! SUPPORT. The encoding family: the decoder and the encoder undo each other on the legal commands and the legal words, and the
legal words are those of the opcode map's rows (30_encoding.md R124–R127). -/

namespace Sys2Proof

theorem decode_of_rsvField_zero {w : Word} (h : w.rsvField = 0#8) :
    decode w = decodeFields w.opField w.dField w.aField w.bField w.iField := if_pos h

theorem decode_of_rsvField_ne_zero {w : Word} (h : w.rsvField ≠ 0#8) : decode w = none := if_neg h

/-! ## What the decoder reads is encoded back to the same word -/

/-- The checks of a shape (R122–R124) are the bounds of a legal command on the fields it keeps, and make 0 the fields it drops. -/
theorem wellFormed_and_encode_of_decodeFields {op : Opcode} {d a b : RegIx} {i : Imm} {c : Instr}
    (h : decodeFields op d a b i = some c) : c.WellFormed ∧ encode c = packWord op d a b i := by
  unfold decodeFields at h
  split at h
  case h_25 => cases h
  all_goals
    rename_i hop
    obtain ⟨-, rfl⟩ := BitVec.toNat_eq_nat.mp hop
    obtain ⟨hok, rfl⟩ := legalIf_eq_some.mp h
    simp only [Bool.and_eq_true, unused_iff, smallIndex_iff, tagsImm_iff, bitImm_iff] at hok
    simp [Instr.WellFormed, Instr.wellFormed, encode, Instr.opcode, hok]

/-- Settles O1: the decoder is run on each word. -/
theorem decodesWrittenOutWords : Obligations.DecodesWrittenOutWords := by
  unfold Obligations.DecodesWrittenOutWords
  decide

/-- Settles O2, by `decode_encode`: the shape's checks pass on the fields a legal command is packed from. -/
theorem decodeOfEncode : Obligations.DecodeOfEncode := fun _ => decode_encode

/-- Settles O3: the command's encoding and the word are the pack of the same fields. -/
theorem encodeOfDecode : Obligations.EncodeOfDecode := by
  intro w c h
  by_cases hrsv : w.rsvField = 0#8
  · rw [decode_of_rsvField_zero hrsv] at h
    obtain ⟨hwf, henc⟩ := wellFormed_and_encode_of_decodeFields h
    exact ⟨hwf, henc.trans (packWord_fields w hrsv)⟩
  · rw [decode_of_rsvField_ne_zero hrsv] at h
    cases h

/-! ## Words as their fields, and the fields of a masked word -/

section
variable (w v : Word)

@[simp] theorem opField_and : (w &&& v).opField = w.opField &&& v.opField := BitVec.extractLsb'_and
@[simp] theorem dField_and : (w &&& v).dField = w.dField &&& v.dField := BitVec.extractLsb'_and
@[simp] theorem aField_and : (w &&& v).aField = w.aField &&& v.aField := BitVec.extractLsb'_and
@[simp] theorem bField_and : (w &&& v).bField = w.bField &&& v.bField := BitVec.extractLsb'_and
@[simp] theorem iField_and : (w &&& v).iField = w.iField &&& v.iField := BitVec.extractLsb'_and
@[simp] theorem rsvField_and : (w &&& v).rsvField = w.rsvField &&& v.rsvField := BitVec.extractLsb'_and

end

theorem eq_iff_fields {w v : Word} (hw : w.rsvField = 0#8) (hv : v.rsvField = 0#8) :
    w = v ↔ w.opField = v.opField ∧ w.dField = v.dField ∧ w.aField = v.aField ∧ w.bField = v.bField ∧
      w.iField = v.iField := by
  refine ⟨fun h => by simp [h], fun ⟨hop, hd, ha, hb, hi⟩ => ?_⟩
  rw [← packWord_fields w hw, ← packWord_fields v hv, hop, hd, ha, hb, hi]

/-! ## The rows of the opcode map (R126) -/

theorem matchesRow_iff {w : Word} {row : Word × Word} : w.matchesRow row = true ↔ w &&& row.2 = row.1 := beq_iff_eq

/-- Every row fixes OP and RSV whole, RSV to 0 (R124, R125). -/
theorem opcodeRows_fix_opField_rsvField : ∀ row ∈ opcodeRows,
    row.2.opField = BitVec.allOnes 8 ∧ row.2.rsvField = BitVec.allOnes 8 ∧ row.1.rsvField = 0#8 := by
  simp [opcodeRows, Word.opField, Word.rsvField]

/-- No two rows have the same opcode (R125). -/
theorem opcodeRows_opField_nodup : (opcodeRows.map fun row => row.1.opField).Nodup := by
  simp [opcodeRows, Word.opField]

/-- The row of an opcode. -/
def rowOf (op : Opcode) : Option (Word × Word) := opcodeRows.find? fun row => op == row.1.opField

theorem mem_opcodeRows_of_rowOf {op : Opcode} {row : Word × Word} (h : rowOf op = some row) :
    row ∈ opcodeRows ∧ op = row.1.opField := by
  have hop := List.find?_some h
  exact ⟨List.mem_of_find?_eq_some h, beq_iff_eq.mp hop⟩

theorem rowOf_eq_some_iff {op : Opcode} {row : Word × Word} :
    rowOf op = some row ↔ row ∈ opcodeRows ∧ op = row.1.opField := by
  refine ⟨mem_opcodeRows_of_rowOf, ?_⟩
  rintro ⟨hrow, rfl⟩
  obtain ⟨found, hfound⟩ : ∃ found, rowOf row.1.opField = some found :=
    Option.isSome_iff_exists.mp (List.find?_isSome.mpr ⟨row, hrow, beq_self_eq_true _⟩)
  obtain ⟨hmem, hop⟩ := mem_opcodeRows_of_rowOf hfound
  rwa [← List.inj_on_of_nodup_map opcodeRows_opField_nodup hrow hmem hop] at hfound

theorem opField_rsvField_of_matchesRow {w : Word} {row : Word × Word} (hrow : row ∈ opcodeRows)
    (h : w.matchesRow row = true) : w.opField = row.1.opField ∧ w.rsvField = 0#8 := by
  obtain ⟨hop, hrsv, hzero⟩ := opcodeRows_fix_opField_rsvField row hrow
  rw [matchesRow_iff] at h
  constructor
  · rw [← h, opField_and, hop, BitVec.and_allOnes]
  · rw [← hzero, ← h, rsvField_and, hrsv, BitVec.and_allOnes]

theorem matchesRow_packWord (op : Opcode) (d a b : RegIx) (i : Imm) {row : Word × Word} (hrow : row ∈ opcodeRows) :
    (packWord op d a b i).matchesRow row = true ↔ op = row.1.opField ∧ d &&& row.2.dField = row.1.dField ∧
      a &&& row.2.aField = row.1.aField ∧ b &&& row.2.bField = row.1.bField ∧ i &&& row.2.iField = row.1.iField := by
  obtain ⟨hop, -, hzero⟩ := opcodeRows_fix_opField_rsvField row hrow
  rw [matchesRow_iff, eq_iff_fields (by simp) hzero, opField_and, hop, BitVec.and_allOnes]
  simp

/-- The rows a word belongs to have its opcode, and an opcode has one row. -/
theorem rowCount_le_one (w : Word) : w.rowCount ≤ 1 := by
  have hsame : ∀ row ∈ opcodeRows, w.matchesRow row = true → (row.1.opField == w.opField) = true := fun row hrow h =>
    beq_iff_eq.mpr (opField_rsvField_of_matchesRow hrow h).1.symm
  calc w.rowCount = opcodeRows.countP w.matchesRow := List.countP_eq_length_filter.symm
    _ ≤ opcodeRows.countP fun row => row.1.opField == w.opField := List.countP_mono_left hsame
    _ = (opcodeRows.map fun row => row.1.opField).count w.opField := by rw [List.count, List.countP_map]; rfl
    _ ≤ 1 := List.nodup_iff_count_le_one.mp opcodeRows_opField_nodup _

theorem rowCount_pos_iff (w : Word) : 0 < w.rowCount ↔ ∃ row ∈ opcodeRows, w.matchesRow row = true := by
  rw [Word.rowCount, ← List.countP_eq_length_filter, List.countP_pos_iff]

/-! ## The checks of a shape are the masks of its row -/

theorem unused_eq_mask (f : BitVec 4) : unused f = (f &&& 0xF#4 == 0#4) := by revert f; decide
theorem smallIndex_eq_mask (r : RegIx) : smallIndex r = (r &&& 0xC#4 == 0#4) := by revert r; decide
theorem tagsImm_eq_mask (i : Imm) : tagsImm i = (i &&& 0xC#4 == 0#4) := by revert i; decide
theorem bitImm_eq_mask (i : Imm) : bitImm i = (i &&& 0xE#4 == 0#4) := by revert i; decide

@[simp] theorem legalIf_isSome (ok : Bool) (i : Instr) : (legalIf ok i).isSome = ok := by cases ok <;> rfl

/-- A packed word belongs to a row iff its fields fit the row of its opcode. -/
theorem exists_matchesRow_packWord (op : Opcode) (d a b : RegIx) (i : Imm) :
    (∃ row ∈ opcodeRows, (packWord op d a b i).matchesRow row = true) ↔ ∃ row, rowOf op = some row ∧
      d &&& row.2.dField = row.1.dField ∧ a &&& row.2.aField = row.1.aField ∧ b &&& row.2.bField = row.1.bField ∧
      i &&& row.2.iField = row.1.iField := by
  simp only [rowOf_eq_some_iff, and_assoc]
  exact exists_congr fun _ => and_congr_right (matchesRow_packWord op d a b i)

/-- An assigned opcode has a row, whose mask is the checks of the opcode's shape; another opcode has none. -/
theorem decodeFields_isSome_iff (op : Opcode) (d a b : RegIx) (i : Imm) :
    (decodeFields op d a b i).isSome = true ↔ ∃ row ∈ opcodeRows, (packWord op d a b i).matchesRow row = true := by
  rw [exists_matchesRow_packWord]
  unfold decodeFields
  split
  case h_25 =>
    have hnone : rowOf op = none := by
      rw [rowOf, List.find?_eq_none]
      simp_all [opcodeRows, Word.opField, BitVec.toNat_eq]
    simp [hnone]
  all_goals
    rename_i hop
    obtain ⟨-, rfl⟩ := BitVec.toNat_eq_nat.mp hop
    rw [show rowOf _ = some _ from rfl]
    simp [Word.dField, Word.aField, Word.bField, Word.iField, unused_eq_mask, smallIndex_eq_mask, tagsImm_eq_mask,
      bitImm_eq_mask, and_assoc]

theorem decode_isSome_iff (w : Word) :
    (decode w).isSome = true ↔ ∃ row ∈ opcodeRows, w.matchesRow row = true := by
  by_cases hrsv : w.rsvField = 0#8
  · rw [decode_of_rsvField_zero hrsv, decodeFields_isSome_iff, packWord_fields w hrsv]
  · rw [decode_of_rsvField_ne_zero hrsv]
    exact iff_of_false (by simp) fun ⟨_, hrow, h⟩ => hrsv (opField_rsvField_of_matchesRow hrow h).2

/-- Settles O4: a word is legal iff it belongs to a row, and no word belongs to two. -/
theorem legalWordMatchesExactlyOneRow : Obligations.LegalWordMatchesExactlyOneRow := by
  intro w
  have hle := rowCount_le_one w
  have hpos : (decode w).isSome = true ↔ 0 < w.rowCount := (decode_isSome_iff w).trans (rowCount_pos_iff w).symm
  constructor
  · intro h
    exact le_antisymm hle (hpos.mp h)
  · intro h
    rw [Bool.eq_false_iff, Ne, hpos] at h
    exact Nat.eq_zero_of_not_pos h

end Sys2Proof
end

section
/-! SUPPORT. The algebra of the tower family: square-and-multiply is the power, Fp, Fp2 and Fp4 are fields, and Fp12 is a commutative
monoid in which every nonzero value has an inverse (40_tower.md R150–R153, R164). -/

namespace Sys2Proof.Machine

/-! ## Powers -/

/-- Square-and-multiply with the exact square is the power. -/
theorem squareMultiply_eq_pow {M : Type} [Monoid M] (x : M) {e : Nat} (he : e ≠ 0) :
    squareMultiply (fun r => r * r) (fun r s => r * s) x e = x ^ e := by
  refine squareMultiply_induct he (fun r n => r = x ^ n) (pow_one x).symm ?_ ?_
  · rintro r n rfl
    rw [two_mul, pow_add]
  · rintro r n rfl
    rw [pow_succ]

/-! ## Fp is a field, in which −2 and 2 are no squares and 2 is no cube (40_tower.md R150–R153) -/

theorem Fp.isField : (letI := fpRing; IsField Fp) := by
  let := fpRing
  exact ⟨⟨Fp.zero, Fp.one, by decide⟩, mul_comm, fun h => ⟨_, Fp.mul_inv h⟩⟩

/-- Fermat's little theorem: the model's inverse is the power q − 2. -/
theorem Fp.pow_q_sub_one {x : Fp} (h : x ≠ Fp.zero) : (letI := fpRing; x ^ (Config.q - 1) = 1) := by
  let := fpRing
  have hinv : x.inv = x ^ (Config.q - 2) := squareMultiply_eq_pow x (by decide)
  rw [show Config.q - 1 = Config.q - 2 + 1 by decide, pow_succ', ← hinv]
  exact Fp.mul_inv h

/-- Euler's criterion, one way: where c^((q−1)/k) ≠ 1, no product of `c` by the `k`-th power of a nonzero value is a `k`-th
power. -/
theorem Fp.eq_zero_of_pow_eq {k m : Nat} {c a b : Fp} (hkm : k * m = Config.q - 1) (hc0 : c ≠ Fp.zero)
    (hc : squareMultiply (fun r => r * r) (fun r s => r * s) c m ≠ Fp.one)
    (h : (letI := fpRing; a ^ k = c * b ^ k)) : b = Fp.zero := by
  let := fpRing
  have := Fp.isField.isDomain
  have hne : k * m ≠ 0 := by rw [hkm]; decide
  by_contra hb
  have ha : a ≠ Fp.zero := by
    rintro rfl
    exact mul_ne_zero hc0 (pow_ne_zero k hb) (h.symm.trans (zero_pow (left_ne_zero_of_mul hne)))
  refine hc ?_
  calc squareMultiply (fun r => r * r) (fun r s => r * s) c m
      = c ^ m := squareMultiply_eq_pow c (right_ne_zero_of_mul hne)
    _ = (c * b ^ k) ^ m := by rw [mul_pow, ← pow_mul, hkm, Fp.pow_q_sub_one hb, mul_one]
    _ = Fp.one := by rw [← h, ← pow_mul, hkm, Fp.pow_q_sub_one ha]; rfl

theorem Fp.eq_zero_of_sq_eq_beta_mul_sq {a b : Fp} (h : (letI := fpRing; a ^ 2 = Fp.beta * b ^ 2)) : b = Fp.zero :=
  Fp.eq_zero_of_pow_eq (k := 2) (m := (Config.q - 1) / 2) (by decide) (by decide) (by decide +kernel) h

theorem Fp.eq_zero_of_sq_eq_two_mul_sq {a b : Fp} (h : (letI := fpRing; a ^ 2 = Fp.ofNat 2 * b ^ 2)) : b = Fp.zero :=
  Fp.eq_zero_of_pow_eq (k := 2) (m := (Config.q - 1) / 2) (by decide) (by decide) (by decide +kernel) h

theorem Fp.eq_zero_of_cube_eq_two_mul_cube {a b : Fp} (h : (letI := fpRing; a ^ 3 = Fp.ofNat 2 * b ^ 3)) : b = Fp.zero :=
  Fp.eq_zero_of_pow_eq (k := 3) (m := (Config.q - 1) / 3) (by decide) (by decide) (by decide +kernel) h

/-! ## Fp2 is a field (40_tower.md R151) -/

theorem Fp2.norm_mul (x y : Fp2) : (x.mul y).norm = x.norm * y.norm := by
  let := fpRing
  simp only [Fp2.norm, Fp2.mul]
  ring

/-- β is no square, so only 0 has norm 0. -/
theorem Fp2.eq_zero_of_norm {x : Fp2} (h : x.norm = Fp.zero) : x = Fp2.zero := by
  let := fpRing
  have := Fp.isField.isDomain
  have hsq : x.x0 * x.x0 = Fp.beta * (x.x1 * x.x1) := sub_eq_zero.mp h
  have h1 : x.x1 = Fp.zero := Fp.eq_zero_of_sq_eq_beta_mul_sq (a := x.x0) (by rw [pow_two, pow_two, hsq])
  have h0 : x.x0 * x.x0 = 0 := by rw [hsq, h1]; rfl
  exact Fp2.ext (mul_self_eq_zero.mp h0) h1

protected theorem Fp2.mul_inv {x : Fp2} (h : x ≠ Fp2.zero) : x.mul x.inv = Fp2.one := by
  let := fpRing
  have hn : x.norm * x.norm.inv = 1 := Fp.mul_inv fun hz => h (Fp2.eq_zero_of_norm hz)
  refine Fp2.ext ?_ ?_
  · change _ = (1 : Fp)
    rw [← hn]
    simp only [Fp2.mul, Fp2.inv, Fp2.scale, Fp2.conj, Fp.neg_eq, Fp2.norm]
    ring
  · change _ = (0 : Fp)
    simp only [Fp2.mul, Fp2.inv, Fp2.scale, Fp2.conj, Fp.neg_eq]
    ring

theorem Fp2.isField : (letI := fp2Ring; IsField Fp2) := by
  let := fp2Ring
  exact ⟨⟨Fp2.zero, Fp2.one, by decide⟩, mul_comm, fun h => ⟨_, Fp2.mul_inv h⟩⟩

/-! ## Fp4 is a field, in which v is no cube (40_tower.md R152) -/

section
variable (x y : Fp4)

theorem Fp4.mul_y0 : (x.mul y).y0 = (letI := fp2Ring; x.y0 * y.y0 + Fp2.u * (x.y1 * y.y1)) := by
  rw [Fp4.mul, Fp2.mulU_eq]
  rfl

theorem Fp4.mul_y1 : (x.mul y).y1 = (letI := fp2Ring; x.y0 * y.y1 + x.y1 * y.y0) := rfl

theorem Fp4.norm_eq : x.norm = (letI := fp2Ring; x.y0 * x.y0 - Fp2.u * (x.y1 * x.y1)) := by
  rw [Fp4.norm, Fp2.mulU_eq]
  rfl

theorem Fp4.norm_mul : (x.mul y).norm = x.norm.mul y.norm := by
  let := fp2Ring
  rw [Fp4.norm_eq, Fp4.norm_eq, Fp4.norm_eq, Fp4.mul_y0, Fp4.mul_y1, Fp2.mul_eq]
  ring

end

/-- u is no square, since its norm 2 is none, so only 0 has norm 0. -/
theorem Fp4.eq_zero_of_norm {x : Fp4} (h : x.norm = Fp2.zero) : x = Fp4.zero := by
  let := fpRing
  let := fp2Ring
  have := Fp2.isField.isDomain
  have hsq : x.y0.mul x.y0 = Fp2.u.mul (x.y1.mul x.y1) := by
    rw [Fp4.norm_eq] at h
    exact sub_eq_zero.mp h
  have hu : Fp2.u.norm = Fp.ofNat 2 := by decide
  have hnorm := congrArg Fp2.norm hsq
  rw [Fp2.norm_mul, Fp2.norm_mul, Fp2.norm_mul, hu] at hnorm
  have h1 : x.y1 = Fp2.zero :=
    Fp2.eq_zero_of_norm (Fp.eq_zero_of_sq_eq_two_mul_sq (a := x.y0.norm) (by rw [pow_two, pow_two, hnorm]))
  have h0 : x.y0 * x.y0 = 0 := by
    rw [h1] at hsq
    exact hsq
  exact Fp4.ext (mul_self_eq_zero.mp h0) h1

protected theorem Fp4.mul_inv {x : Fp4} (h : x ≠ Fp4.zero) : x.mul x.inv = Fp4.one := by
  let := fp2Ring
  have hn : x.norm * x.norm.inv = 1 := Fp2.mul_inv fun hz => h (Fp4.eq_zero_of_norm hz)
  refine Fp4.ext ?_ ?_
  · change _ = (1 : Fp2)
    rw [← hn, Fp4.mul_y0]
    simp only [Fp4.inv, Fp4.conj, Fp4.norm_eq, Fp2.neg_eq, Fp2.mul_eq]
    ring
  · change _ = (0 : Fp2)
    rw [Fp4.mul_y1]
    simp only [Fp4.inv, Fp4.conj, Fp2.neg_eq, Fp2.mul_eq]
    ring

theorem Fp4.isField : (letI := fp4Ring; IsField Fp4) := by
  let := fp4Ring
  exact ⟨⟨Fp4.zero, Fp4.one, by decide⟩, mul_comm, fun h => ⟨_, Fp4.mul_inv h⟩⟩

/-- The norm of Fp4 to Fp. -/
def Fp4.fpNorm (x : Fp4) : Fp := x.norm.norm

theorem Fp4.fpNorm_mul (x y : Fp4) : (x.mul y).fpNorm = x.fpNorm * y.fpNorm := by
  rw [Fp4.fpNorm, Fp4.norm_mul, Fp2.norm_mul]
  rfl

theorem Fp4.fpNorm_cube (x : Fp4) : (x.mul (x.mul x)).fpNorm = (letI := fpRing; x.fpNorm ^ 3) := by
  let := fpRing
  rw [Fp4.fpNorm_mul, Fp4.fpNorm_mul]
  ring

/-- v is no cube, since its norm 2 to Fp is none. -/
theorem Fp4.eq_zero_of_cube_eq_v_mul_cube {r s : Fp4} (h : (letI := fp4Ring; r ^ 3 = Fp4.v * s ^ 3)) : s = Fp4.zero := by
  let := fp4Ring
  have hcube : r.mul (r.mul r) = Fp4.v.mul (s.mul (s.mul s)) := by
    change r * (r * r) = Fp4.v * (s * (s * s))
    linear_combination h
  have hv : Fp4.v.fpNorm = Fp.ofNat 2 := by decide
  have hnorm := congrArg Fp4.fpNorm hcube
  rw [Fp4.fpNorm_mul Fp4.v, hv, Fp4.fpNorm_cube, Fp4.fpNorm_cube] at hnorm
  exact Fp4.eq_zero_of_norm (Fp2.eq_zero_of_norm (Fp.eq_zero_of_cube_eq_two_mul_cube hnorm))

/-! ## Fp12 is a commutative monoid with inverses of the nonzero values (40_tower.md R153, R164, R170) -/

theorem Fp12.ext {x y : Fp12} (ha : x.a = y.a) (hb : x.b = y.b) (hc : x.c = y.c) : x = y := by
  obtain ⟨_, _, _⟩ := x
  obtain ⟨_, _, _⟩ := y
  simp_all

section
variable (x y : Fp12)

theorem Fp12.mul_a : (x.mul y).a = (letI := fp4Ring; x.a * y.c + x.b * y.b + x.c * y.a) := rfl

theorem Fp12.mul_b : (x.mul y).b = (letI := fp4Ring; x.b * y.c + x.c * y.b + Fp4.v * (x.a * y.a)) := by
  simp only [Fp12.mul, Fp4.mulV_eq]
  rfl

theorem Fp12.mul_c : (x.mul y).c = (letI := fp4Ring; x.c * y.c + Fp4.v * (x.b * y.a + x.a * y.b)) := by
  simp only [Fp12.mul, Fp4.mulV_eq]
  rfl

end

protected theorem Fp12.mul_comm (x y : Fp12) : x.mul y = y.mul x := by
  let := fp4Ring
  refine Fp12.ext ?_ ?_ ?_
  · rw [Fp12.mul_a, Fp12.mul_a]; ring
  · rw [Fp12.mul_b, Fp12.mul_b]; ring
  · rw [Fp12.mul_c, Fp12.mul_c]; ring

protected theorem Fp12.mul_assoc (x y z : Fp12) : (x.mul y).mul z = x.mul (y.mul z) := by
  let := fp4Ring
  refine Fp12.ext ?_ ?_ ?_
  · simp only [Fp12.mul_a, Fp12.mul_b, Fp12.mul_c]; ring
  · simp only [Fp12.mul_a, Fp12.mul_b, Fp12.mul_c]; ring
  · simp only [Fp12.mul_a, Fp12.mul_b, Fp12.mul_c]; ring

protected theorem Fp12.one_mul (x : Fp12) : Fp12.one.mul x = x := by
  let := fp4Ring
  refine Fp12.ext ?_ ?_ ?_
  · rw [Fp12.mul_a]
    change 0 * x.c + 0 * x.b + 1 * x.a = x.a
    ring
  · rw [Fp12.mul_b]
    change 0 * x.c + 1 * x.b + Fp4.v * (0 * x.a) = x.b
    ring
  · rw [Fp12.mul_c]
    change 1 * x.c + Fp4.v * (0 * x.a + 0 * x.b) = x.c
    ring

/-- Fp12 under the model's product. Like the rings of the lower floors, no global rule. -/
@[reducible] def fp12Monoid : CommMonoid Fp12 :=
  { mul := Fp12.mul
    one := Fp12.one
    mul_assoc := Fp12.mul_assoc
    mul_comm := Fp12.mul_comm
    one_mul := Fp12.one_mul
    mul_one := fun x => (Fp12.mul_comm x _).trans (Fp12.one_mul x) }

/-- The norm of Fp12 to Fp4, the value `Fp12.inv` inverts (40_tower.md R164). -/
def Fp12.norm (x : Fp12) : Fp4 :=
  letI := fp4Ring
  x.c ^ 3 + Fp4.v * x.b ^ 3 + Fp4.v ^ 2 * x.a ^ 3 - 3 * Fp4.v * x.a * x.b * x.c

/-- v is no cube, so only 0 has norm 0. A value a·w² + b·w + c of norm 0 has a product with a·w − b that is linear in w and has
norm 0, so it is 0; this makes v a quotient of cubes unless a and b are 0. -/
theorem Fp12.eq_zero_of_norm {x : Fp12} (h : x.norm = Fp4.zero) : x = Fp12.zero := by
  let := fp4Ring
  have := Fp4.isField.isDomain
  obtain ⟨a, b, c⟩ := x
  have hn : c ^ 3 + Fp4.v * b ^ 3 + Fp4.v ^ 2 * a ^ 3 - 3 * Fp4.v * a * b * c = 0 := h
  have hlinear : (Fp4.v * a ^ 2 - b * c) ^ 3 = Fp4.v * (b ^ 2 - a * c) ^ 3 := by
    linear_combination (Fp4.v * a ^ 3 - b ^ 3) * hn
  have hbb : b ^ 2 - a * c = 0 := Fp4.eq_zero_of_cube_eq_v_mul_cube hlinear
  have hbc : Fp4.v * a ^ 2 - b * c = 0 := by
    rw [hbb, zero_pow (by decide), mul_zero] at hlinear
    exact pow_eq_zero_iff (by decide) |>.mp hlinear
  have ha : a = 0 := Fp4.eq_zero_of_cube_eq_v_mul_cube (r := b) (by linear_combination b * hbb - a * hbc)
  have hb : b = 0 := by
    rw [ha, zero_mul, sub_zero] at hbb
    exact pow_eq_zero_iff (by decide) |>.mp hbb
  have hc : c = 0 := by
    rw [ha, hb] at hn
    exact pow_eq_zero_iff (n := 3) (by decide) |>.mp (by linear_combination hn)
  rw [ha, hb, hc]
  rfl

theorem Fp12.inv_eq (x : Fp12) : x.inv = (letI := fp4Ring
    ⟨(x.b * x.b - x.a * x.c) * x.norm.inv, (Fp4.v * (x.a * x.a) - x.b * x.c) * x.norm.inv,
      (x.c * x.c - Fp4.v * (x.a * x.b)) * x.norm.inv⟩) := by
  let := fp4Ring
  have hn : x.norm = x.c * (x.c * x.c - Fp4.v * (x.a * x.b)) +
      Fp4.v * (x.b * (x.b * x.b - x.a * x.c) + x.a * (Fp4.v * (x.a * x.a) - x.b * x.c)) := by
    rw [Fp12.norm]
    ring
  rw [hn]
  simp only [Fp12.inv, Fp4.mulV_eq]
  rfl

/-- The inverse of a nonzero value. -/
protected theorem Fp12.mul_inv {x : Fp12} (h : x ≠ Fp12.zero) : x.mul x.inv = Fp12.one := by
  let := fp4Ring
  have hn : x.norm * x.norm.inv = 1 := Fp4.mul_inv fun hz => h (Fp12.eq_zero_of_norm hz)
  rw [Fp12.inv_eq]
  refine Fp12.ext ?_ ?_ ?_
  · rw [Fp12.mul_a]
    change _ = (0 : Fp4)
    ring
  · rw [Fp12.mul_b]
    change _ = (0 : Fp4)
    ring
  · rw [Fp12.mul_c]
    change _ = (1 : Fp4)
    rw [← hn, Fp12.norm]
    ring

/-- The exact power as a product of `n` factors is the monoid's power. -/
theorem Fp12.nthPower_eq_pow (x : Fp12) (n : Nat) : x.nthPower n = (letI := fp12Monoid; x ^ n) := by
  let := fp12Monoid
  calc x.nthPower n = x ^ n * 1 := congrFun (mul_left_iterate x n) 1
    _ = x ^ n := mul_one _

end Sys2Proof.Machine
end

section
/-! SUPPORT. The tower family: what MUL, CONJ, INV, DIV, FROB and POW write, and the tags of every command that writes an X register
(40_tower.md R156–R168). -/

namespace Sys2Proof.Machine

/-! ## CONJ (40_tower.md R162) -/

theorem Fp12.limbs_ofLimbs (l0 l1 l2 l3 l4 l5 l6 l7 l8 l9 l10 l11 : Fp) :
    (Fp12.ofLimbs l0 l1 l2 l3 l4 l5 l6 l7 l8 l9 l10 l11).limbs = [l0, l1, l2, l3, l4, l5, l6, l7, l8, l9, l10, l11] := rfl

theorem Fp12.eq_ofLimbs_of_limbs {v : Fp12} {l0 l1 l2 l3 l4 l5 l6 l7 l8 l9 l10 l11 : Fp}
    (h : v.limbs = [l0, l1, l2, l3, l4, l5, l6, l7, l8, l9, l10, l11]) :
    v = Fp12.ofLimbs l0 l1 l2 l3 l4 l5 l6 l7 l8 l9 l10 l11 := by
  simp only [Fp12.limbs, List.cons.injEq, and_true] at h
  obtain ⟨rfl, rfl, rfl, rfl, rfl, rfl, rfl, rfl, rfl, rfl, rfl, rfl⟩ := h
  rfl

theorem Fp.neg_neg_eq_self (x : Fp) : x.neg.neg = x := by
  let := fpRing
  rw [Fp.neg_eq, Fp.neg_eq, neg_neg]

/-- The middle coefficient is negated twice in its upper half, so L4 and L5 stay. -/
theorem Fp12.conj_ofLimbs (l0 l1 l2 l3 l4 l5 l6 l7 l8 l9 l10 l11 : Fp) :
    (Fp12.ofLimbs l0 l1 l2 l3 l4 l5 l6 l7 l8 l9 l10 l11).conj =
      Fp12.ofLimbs l0.neg l1.neg l2 l3 l4 l5 l6.neg l7.neg l8.neg l9.neg l10 l11 := by
  simp [Fp12.conj, Fp12.ofLimbs, Fp4.conj, Fp4.neg, Fp2.neg, Fp.neg_neg_eq_self]

/-- Settles O20: the conjugate, limb by limb. -/
theorem conjNegatesSixLimbs : Obligations.ConjNegatesSixLimbs := by
  intro d a s v u m l0 l1 l2 l3 l4 l5 l6 l7 l8 l9 l10 l11 hd hx hv
  refine ⟨v.conj, exec_of_effect (i := .conj d a) ⟨hd, _, hx, rfl⟩, ?_⟩
  rw [Fp12.eq_ofLimbs_of_limbs hv, Fp12.conj_ofLimbs, Fp12.limbs_ofLimbs]

/-! ## MUL, INV and DIV (40_tower.md R158, R163–R165) -/

/-- Settles O17: the effect of MUL, with the product written out. -/
theorem mulWritesProduct : Obligations.MulWritesProduct := by
  intro d a b s x y hd hx hy
  exact exec_of_effect (i := .mul d a b) ⟨hd, x, y, hx, hy, rfl⟩

theorem invValue_of_unitary (x : Fp12) : invValue x true = .ok x.conj := rfl

theorem invValue_of_ne_zero {x : Fp12} (h : x ≠ Fp12.zero) : invValue x false = .ok x.inv := by
  simp [invValue, h]

/-- The value whose product with `x` is 1 is `x.inv`. -/
theorem Fp12.eq_inv_of_mul_eq_one {x z : Fp12} (h : x ≠ Fp12.zero) (hz : x.mul z = Fp12.one) : z = x.inv := by
  let := fp12Monoid
  exact left_inv_eq_right_inv ((Fp12.mul_comm z x).trans hz) (Fp12.mul_inv h)

/-- Settles O21: `Fp12.mul_inv`, and an inverse in a commutative monoid is unique. -/
theorem invWritesUniqueInverse : Obligations.InvWritesUniqueInverse := by
  intro d a s x hd hx hu hne
  have hinv : invValue x.val x.u = .ok x.val.inv := by rw [hu, invValue_of_ne_zero hne]
  exact ⟨x.val.inv, exec_of_effect (i := .inv d a) ⟨hd, x, _, hx, hinv, rfl⟩, Fp12.mul_inv hne,
    fun z => Fp12.eq_inv_of_mul_eq_one hne⟩

/-- Settles O22: with U = 1 INV has CONJ's effect. -/
theorem invOfUnitaryIsConjugate : Obligations.InvOfUnitaryIsConjugate := by
  intro d a s x hd hx hu
  have hinv : invValue x.val x.u = .ok x.val.conj := by rw [hu, invValue_of_unitary]
  have hexec := exec_of_effect (i := .inv d a) ⟨hd, x, _, hx, hinv, rfl⟩
  exact ⟨hexec, hexec.trans (exec_of_effect (i := .conj d a) ⟨hd, x, hx, rfl⟩).symm⟩

theorem Fp12.mul_inv_mul (x : Fp12) {y : Fp12} (h : y ≠ Fp12.zero) : (x.mul y.inv).mul y = x := by
  rw [Fp12.mul_assoc, Fp12.mul_comm y.inv, Fp12.mul_inv h, Fp12.mul_comm, Fp12.one_mul]

/-- Settles O23: the divisor's INV-value by its U tag, and `Fp12.mul_inv_mul` for U = 0. -/
theorem divWritesQuotient : Obligations.DivWritesQuotient := by
  intro d a b s x y hd hx hy
  have hexec {r : Fp12} (hr : invValue y.val y.u = .ok r) :=
    exec_of_effect (i := .div d a b) ⟨hd, x, y, r, hx, hy, hr, rfl⟩
  refine ⟨fun hu => hexec (by rw [hu, invValue_of_unitary]; rfl), fun hu hne => ?_⟩
  exact ⟨_, hexec (by rw [hu, invValue_of_ne_zero hne]), Fp12.mul_inv_mul x.val hne⟩

/-! ## FROB (40_tower.md R166) -/

theorem Fp2.pow_eq (x : Fp2) {e : Nat} (he : e ≠ 0) : x.pow e = (letI := fp2Ring; x ^ e) := by
  let := fp2Ring
  exact squareMultiply_eq_pow x he

/-- φ with the powers of the constant as products. -/
theorem Fp12.phi_eq (f : Fp2) (v : Fp12) : v.phi f =
    ⟨⟨v.a.y0.conj.mul (f.mul f), (v.a.y1.conj.mul ((f.mul f).mul f)).mul (f.mul f)⟩,
     ⟨v.b.y0.conj.mul f, (v.b.y1.conj.mul ((f.mul f).mul f)).mul f⟩,
     ⟨v.c.y0.conj, v.c.y1.conj.mul ((f.mul f).mul f)⟩⟩ := by
  let := fp2Ring
  have h2 : f.pow 2 = f.mul f := (Fp2.pow_eq f (by decide)).trans (pow_two f)
  have h3 : f.pow 3 = (f.mul f).mul f := (Fp2.pow_eq f (by decide)).trans (pow_three' f)
  rw [Fp12.phi, Fp12.phi4, Fp12.phi4, Fp12.phi4, h2, h3]
  rfl

theorem Fp12.frob_eq_iterate (f : Fp2) (k : Nat) (x : Fp12) : x.frob f k = (Fp12.phi f)^[k] x := by
  induction k generalizing x with
  | zero => rfl
  | succ k ih => rw [Fp12.frob, ih, Function.iterate_succ_apply]

/-- Settles O24: FROB's loop is the iterate of φ. -/
theorem frobAppliesPhi : Obligations.FrobAppliesPhi := by
  intro d a k s x f hd hx hf
  simp only [← Fp12.phi_eq f]
  rw [← Fp12.frob_eq_iterate]
  exact exec_of_effect (i := .frob d a k) ⟨hd, x, f, hx, hf, rfl⟩

/-! ## POW (40_tower.md R167, R168) -/

/-- With U = 0 the squarings of the chain are exact, so it is the power. -/
theorem powChain_exact (x : Fp12) {e : Nat} (he : e ≠ 0) : powChain x false e = x.nthPower e := by
  let := fp12Monoid
  rw [Fp12.nthPower_eq_pow]
  exact squareMultiply_eq_pow x he

/-- With U = 1 the squarings of the chain are GS. -/
theorem powChain_unitary (x : Fp12) {e : Nat} (he : e ≠ 0) : powChain x true e =
    ((List.range e.log2).reverse).foldl (fun r i => if e.testBit i then r.gs.mul x else r.gs) x := by
  rw [powChain, squareMultiply, bitlen, if_neg he]
  rfl

/-- POW-value for exponent 0, whatever its sign. -/
theorem powValue_toInt_zero (x : Fp12) (u : Bool) {k : Exponent} (hk : k.mag.toNat = 0) :
    powValue x u k.toInt = .ok Fp12.one := by
  simp [powValue, Exponent.toInt, hk]

/-- POW-value of another exponent is the chain from the base its sign picks: x, or the INV-value of x (10_state.md R40). -/
theorem powValue_toInt {x base : Fp12} {u : Bool} {k : Exponent} (hk : k.mag.toNat ≠ 0)
    (hbase : (if k.s then invValue x u else .ok x) = .ok base) :
    powValue x u k.toInt = .ok (powChain base u k.mag.toNat) := by
  obtain ⟨sign, mag⟩ := k
  cases sign with
  | false =>
    obtain rfl : x = base := by simpa using hbase
    rw [powValue, if_neg (by simpa [Exponent.toInt] using hk), if_neg (by simp [Exponent.toInt])]
    simp [Exponent.toInt]
  | true =>
    have hinv : invValue x u = .ok base := by simpa using hbase
    have hneg : (⟨true, mag⟩ : Exponent).toInt < 0 := by simpa [Exponent.toInt] using Nat.pos_of_ne_zero hk
    rw [powValue, if_neg hneg.ne, if_pos hneg, hinv]
    simp [Exponent.toInt]

/-- POW completes with its POW-value, for a K index of its file. -/
theorem exec_pow {d a b : RegIx} {s : State} {x : Tagged} {k : Exponent} {r : Fp12} (hd : s.initDone = true)
    (hb : b.toNat < 4) (hx : s.readX a = .ok x) (hk : s.readK b = .ok k) (hr : powValue x.val x.u k.toInt = .ok r) :
    exec (.pow d a b) s = .next { s with x := fileWrite s.x d ⟨r, x.u, x.m⟩, latch := none, done := true } :=
  exec_of_effect (i := .pow d a b) ⟨hd, decide_eq_true hb, x, k, r, hx, hk, hr, rfl⟩

/-- Settles O27: the exponent 0, and the chain of exact squarings from the base that the sign picks. -/
theorem powIsExactPower : Obligations.PowIsExactPower := by
  intro d a b s x k hd hb hx hk hu hne
  refine exec_pow hd hb hx hk ?_
  rw [hu]
  by_cases hmag : k.mag.toNat = 0
  · rw [powValue_toInt_zero _ _ hmag, hmag]
    rfl
  · have hbase : (if k.s then invValue x.val false else .ok x.val) = .ok (if k.s then x.val.inv else x.val) := by
      cases hs : k.s with
      | false => rfl
      | true => exact invValue_of_ne_zero (hne hs hmag)
    rw [powValue_toInt hmag hbase, powChain_exact _ hmag]

/-- Settles O28: the exponent 0, and the chain of GS squarings from the base that the sign picks. -/
theorem powOfUnitaryUsesGs : Obligations.PowOfUnitaryUsesGs := by
  intro d a b s x k hd hb hx hk hu
  refine exec_pow hd hb hx hk ?_
  rw [hu]
  by_cases hmag : k.mag.toNat = 0
  · rw [powValue_toInt_zero _ _ hmag, if_pos hmag]
  · have hbase : (if k.s then invValue x.val true else .ok x.val) = .ok (if k.s then x.val.conj else x.val) := by
      cases k.s <;> rfl
    rw [powValue_toInt hmag hbase, powChain_unitary _ hmag, if_neg hmag]

/-! ## Tags (40_tower.md R156) -/

/-- A command from a state with ERR = 0 to one with ERR = 0 has completed. -/
theorem effect_of_exec {i : Instr} {s t : State} (ht : t.err = none) (h : exec i s = .next t) :
    ∃ e, Effect s e i ∧ t = e.complete := by
  obtain he | ⟨c, rfl⟩ := exec_cases h
  · exact he
  · rw [State.fail_err] at ht
    cases ht

theorem readX_writeX_complete (s : State) (d : RegIx) (v : Tagged) : (s.writeX d v).complete.readX d = .ok v := by
  rw [State.readX, fileRead_eq_ok]
  exact fileWrite_same s.x v d.isLt

/-- Settles O49: the value each command's effect writes, read back after it has completed. -/
theorem tagsPropagateByTable : Obligations.TagsPropagateByTable := by
  intro s t _ ht
  refine ⟨fun d a b h => ?_, fun d a b i h => ?_, fun d h => ?_, fun d i h => ?_, fun d a b h => ?_, fun d a b h => ?_⟩
  · obtain hmul | hdiv := h
    · obtain ⟨e, ⟨-, x, y, hx, hy, rfl⟩, rfl⟩ := effect_of_exec ht hmul
      exact ⟨x, y, _, hx, hy, readX_writeX_complete s d _⟩
    · obtain ⟨e, ⟨-, x, y, r, hx, hy, -, rfl⟩, rfl⟩ := effect_of_exec ht hdiv
      exact ⟨x, y, _, hx, hy, readX_writeX_complete s d _⟩
  · obtain hsqr | hconj | hinv | hfrob | hpow | hmov := h
    · obtain ⟨e, ⟨-, x, hx, rfl⟩, rfl⟩ := effect_of_exec ht hsqr
      exact ⟨x, _, hx, readX_writeX_complete s d _⟩
    · obtain ⟨e, ⟨-, x, hx, rfl⟩, rfl⟩ := effect_of_exec ht hconj
      exact ⟨x, _, hx, readX_writeX_complete s d _⟩
    · obtain ⟨e, ⟨-, x, r, hx, -, rfl⟩, rfl⟩ := effect_of_exec ht hinv
      exact ⟨x, _, hx, readX_writeX_complete s d _⟩
    · obtain ⟨e, ⟨-, x, f, hx, -, rfl⟩, rfl⟩ := effect_of_exec ht hfrob
      exact ⟨x, _, hx, readX_writeX_complete s d _⟩
    · obtain ⟨e, ⟨-, -, x, k, r, hx, -, -, rfl⟩, rfl⟩ := effect_of_exec ht hpow
      exact ⟨x, _, hx, readX_writeX_complete s d _⟩
    · obtain ⟨e, ⟨-, x, hx, rfl⟩, rfl⟩ := effect_of_exec ht hmov
      exact ⟨x, _, hx, readX_writeX_complete s d _⟩
  · obtain ⟨e, ⟨-, rfl⟩, rfl⟩ := effect_of_exec ht h
    exact ⟨_, readX_writeX_complete s d _⟩
  · obtain hldx | htag := h
    · obtain ⟨e, ⟨-, -, v, -, rfl⟩, rfl⟩ := effect_of_exec ht hldx
      exact ⟨v, readX_writeX_complete s d _⟩
    · obtain ⟨e, ⟨-, -, x, -, rfl⟩, rfl⟩ := effect_of_exec ht htag
      exact ⟨x.val, readX_writeX_complete s d _⟩
  · obtain ⟨e, ⟨-, -, -, _, _, _, v, -, -, -, -, rfl⟩, rfl⟩ := effect_of_exec ht h
    exact ⟨v, readX_writeX_complete s d _⟩
  · obtain hfexp | hpair := h
    · obtain ⟨e, ⟨-, x, -, -, rfl⟩, rfl⟩ := effect_of_exec ht hfexp
      exact ⟨fexpValue x.val, readX_writeX_complete s d _⟩
    · obtain ⟨e, ⟨-, -, -, _, _, _, v, -, -, -, -, rfl⟩, rfl⟩ := effect_of_exec ht hpair
      exact ⟨v, readX_writeX_complete s d _⟩

end Sys2Proof.Machine
end

section
/-! SUPPORT. The data family: limbs loaded from DATA and stored to it, exponents loaded, and the registers, RESULT and DATA bytes that
LDX, STX, MOV, SET1, TAG, EQ and LDK write (41_data.md). -/

namespace Sys2Proof.Machine

/-! ## LDX and STX (41_data.md R200, R204) -/

/-- LDX's operand is the value whose limbs stand in DATA in serialization order. -/
theorem loadFp12_eq_ok {m : Memory} {v : Fp12} :
    loadFp12 m = .ok v ↔ v.limbs.map (fun l => l.val) = (List.range 12).map (fun j => m.readNat (32 * j) 32) := by
  simp only [loadFp12, bind_eq_ok, loadFp_eq_ok, Except.ok.injEq]
  constructor
  · rintro ⟨l0, h0, l1, h1, l2, h2, l3, h3, l4, h4, l5, h5, l6, h6, l7, h7, l8, h8, l9, h9, l10, h10, l11, h11, rfl⟩
    simp [List.range_succ, h0, h1, h2, h3, h4, h5, h6, h7, h8, h9, h10, h11]
  · intro h
    simp only [Fp12.limbs, List.range_succ, List.range_zero, List.nil_append, List.cons_append, List.map_cons, List.map_nil,
      List.cons.injEq] at h
    obtain ⟨h0, h1, h2, h3, h4, h5, h6, h7, h8, h9, h10, h11, -⟩ := h
    exact ⟨_, h0.symm, _, h1.symm, _, h2.symm, _, h3.symm, _, h4.symm, _, h5.symm, _, h6.symm, _, h7.symm, _, h8.symm,
      _, h9.symm, _, h10.symm, _, h11.symm, rfl⟩

/-- The limbs STX stores read back: each is below q, so its 32 bytes hold it whole. -/
theorem readNat_storeFp12 {m : Memory} (hm : m.wf) (x : Fp12) :
    (List.range 12).map (fun j => (storeFp12 m x).readNat (32 * j) 32) = x.limbs.map (fun l => l.val) := by
  refine List.ext_getElem (by simp) fun j _ hj => ?_
  have hread := Memory.readNat_writeLimbs hm 0 (x.limbs.map fun l => l.val) j hj
  have hlt : (x.limbs.map fun l => l.val)[j] < 256 ^ 32 := by
    rw [List.getElem_map]
    exact Nat.lt_trans (Fin.isLt _) (by decide)
  rw [Nat.mod_eq_of_lt hlt, Nat.zero_add] at hread
  rw [List.getElem_map, List.getElem_range]
  exact hread

/-- Loading what STX stored gives the value back. -/
theorem loadFp12_storeFp12 {m : Memory} (hm : m.wf) (x : Fp12) : loadFp12 (storeFp12 m x) = .ok x :=
  loadFp12_eq_ok.mpr (readNat_storeFp12 hm x).symm

theorem exec_ldx {d : RegIx} {i : Imm} {s : State} {v : Fp12} (hd : s.initDone = true) (hi : i.toNat < 4)
    (hv : loadFp12 s.data = .ok v) : exec (.ldx d i) s = .next (s.writeX d (Tagged.ofImm v i)).complete :=
  exec_of_effect (i := .ldx d i) ⟨hd, decide_eq_true hi, v, hv, rfl⟩

theorem exec_stx {a : RegIx} {s : State} {x : Tagged} (hd : s.initDone = true) (hx : s.readX a = .ok x) :
    exec (.stx a) s = .next (s.setData (storeFp12 s.data x.val)).complete :=
  exec_of_effect (i := .stx a) ⟨hd, x, hx, rfl⟩

theorem State.complete_setData (s : State) (m : Memory) :
    (s.setData m).complete = { s with data := m, latch := none, done := true } := rfl

/-- Settles O11: the limbs in DATA are those of the value loaded. -/
theorem ldxLoadsTwelveLimbs : Obligations.LdxLoadsTwelveLimbs := by
  intro d i s v hd hi hv
  exact exec_ldx hd hi (loadFp12_eq_ok.mpr hv)

/-- Settles O12: the stored limbs read back, and a read past them is unchanged. -/
theorem stxStoresTwelveLimbs : Obligations.StxStoresTwelveLimbs := by
  intro a s x hd hwf hx
  refine ⟨storeFp12 s.data x.val, ?_, readNat_storeFp12 hwf x.val, fun _ => read_storeFp12_other⟩
  rw [exec_stx hd hx, State.complete_setData]

/-- Settles O13: LDX loads the value STX stored, and puts back the tags that STX dropped. -/
theorem stxThenLdxRestoresRegister : Obligations.StxThenLdxRestoresRegister := by
  intro a d i s x hd hwf hx hi hu hm
  have hinit (m : Memory) : (s.setData m).complete.initDone = true := hd
  have hload : loadFp12 (s.setData (storeFp12 s.data x.val)).complete.data = .ok x.val := by
    rw [State.complete_data, State.setData_data, loadFp12_storeFp12 hwf]
  have htags : Tagged.ofImm x.val i = x := by rw [Tagged.ofImm, hu, hm]
  refine ⟨_, _, exec_stx hd hx, exec_ldx (hinit _) hi hload, ?_⟩
  rw [htags, readX_writeX_complete]

/-! ## DATA bytes a command leaves alone (41_data.md R216) -/

theorem EffectForm.read_data {s e : State} {i : Instr} (h : EffectForm s i e) {o : Nat} (ho : i.storedBytes ≤ o) :
    e.data.read o = s.data.read o := by
  cases h with
  | storeX x hb => rw [State.setData_data, read_storeFp12_other (hb ▸ ho)]
  | storeP pt hb => rw [State.setResult_data, State.setData_data, read_storeG2_other (hb ▸ ho)]
  | nothing | init | writeX | writeP | writeQ | writeK | result => rfl

/-- Settles O47: by the form of the effect, and by the error entry, which keeps DATA. -/
theorem onlyStoredBytesChange : Obligations.OnlyStoredBytesChange := by
  intro i s t ht o ho
  obtain ⟨e, heff, rfl⟩ | ⟨c, rfl⟩ := exec_cases ht
  · exact (effectForm_of_effect heff).read_data ho
  · rfl

/-! ## MOV, SET1, TAG and EQ (41_data.md R206–R212) -/

/-- Settles O14: the effect of each of the three commands. -/
theorem movSet1TagWriteRegister : Obligations.MovSet1TagWriteRegister := by
  refine ⟨fun d a s x hd hx => ?_, fun d s hd => ?_, fun d i s x hd hi hx => ?_⟩
  · exact exec_of_effect (i := .mov d a) ⟨hd, x, hx, rfl⟩
  · exact exec_of_effect (i := .set1 d) ⟨hd, rfl⟩
  · exact exec_of_effect (i := .tag d i) ⟨hd, decide_eq_true hi, x, hx, rfl⟩

theorem Fp12.limbs_inj {x y : Fp12} : x.limbs = y.limbs ↔ x = y := ⟨Fp12.ext_limbs, congrArg Fp12.limbs⟩

/-- Settles O15: two values are equal when their limbs are. -/
theorem eqComparesLimbsOnly : Obligations.EqComparesLimbsOnly := by
  intro a b s x y hd hx hy
  refine ⟨x.val = y.val, exec_of_effect (i := .eq a b) ⟨hd, x, y, hx, hy, rfl⟩, ?_⟩
  rw [decide_eq_true_iff, Fp12.limbs_inj]

/-! ## LDK (41_data.md R214) -/

/-- A number of 32 bytes is no longer than the magnitude, so the load cuts nothing off. -/
theorem loadExponent_mag (m : Memory) (i : Imm) : (loadExponent m i).mag.toNat = m.readNat 0 32 := by
  have hlt : m.readNat 0 32 < 2 ^ 256 := Memory.readNat_lt m 0 32
  rw [loadExponent, BitVec.toNat_ofNat, Nat.mod_eq_of_lt hlt]

/-- Settles O16: the effect of LDK, and the magnitude and sign it loads. -/
theorem ldkLoadsExponent : Obligations.LdkLoadsExponent := by
  intro d i s hd hdlt hi
  refine ⟨loadExponent s.data i, ?_, rfl, loadExponent_mag s.data i, ?_⟩
  · exact exec_of_effect (i := .ldk d i) ⟨hd, decide_eq_true hdlt, decide_eq_true hi, rfl⟩
  · rw [Exponent.toInt, loadExponent_mag]
    rfl

end Sys2Proof.Machine
end

section
/-! SUPPORT. The pairing family: the Miller loop as the loop written out over Steps, and what LDP, STP, LDQ, FROBP, MILLER, FEXP, PAIR
and MEMBER write (42_pairing.md). -/

namespace Sys2Proof.Machine

/-! ## The Frobenius map on G2 (42_pairing.md R235) -/

theorem Fp2.pow_two_eq_mul (x : Fp2) : x.pow 2 = x.mul x := by
  let := fp2Ring
  exact (Fp2.pow_eq x (by decide)).trans (pow_two x)

theorem Fp2.pow_three_eq_mul (x : Fp2) : x.pow 3 = (x.mul x).mul x := by
  let := fp2Ring
  exact (Fp2.pow_eq x (by decide)).trans (pow_three' x)

/-- The powers of F⁻¹ as products. -/
theorem frobAffine_eq (f : Fp2) (p : Affine2) : frobAffine f p =
    ⟨p.x.conj.mul (f.inv.mul f.inv), p.y.conj.mul ((f.inv.mul f.inv).mul f.inv)⟩ := by
  rw [frobAffine, Fp2.pow_two_eq_mul, Fp2.pow_three_eq_mul]

theorem frobPoint_of_inf {f : Fp2} {pt : G2Point} (h : pt.inf = true) : frobPoint f pt = ⟨true, Fp2.zero, Fp2.zero⟩ :=
  if_pos h

theorem frobPoint_of_finite {f : Fp2} {pt : G2Point} (h : pt.inf = false) : frobPoint f pt =
    ⟨false, pt.x.conj.mul (f.inv.mul f.inv), pt.y.conj.mul ((f.inv.mul f.inv).mul f.inv)⟩ := by
  rw [frobPoint, if_neg (Bool.eq_false_iff.mp h), frobAffine_eq]

/-- Settles O34: FROBP's value by the infinity marker. -/
theorem frobpMapsPoint : Obligations.FrobpMapsPoint := by
  intro d a s pt f hd hdlt ha hp hf
  have hexec := exec_of_effect (i := .frobp d a) ⟨hd, decide_eq_true hdlt, decide_eq_true ha, pt, f, hp, hf, rfl⟩
  constructor
  · intro hinf
    rwa [frobPoint_of_inf hinf] at hexec
  · intro hinf
    rwa [frobPoint_of_finite hinf] at hexec

/-! ## Points loaded from DATA (42_pairing.md R230, R233) -/

theorem loadG2_of_limbs {m : Memory} {xi xr yi yr : Fp} (hxi : m.readNat 0 32 = xi.val) (hxr : m.readNat 32 32 = xr.val)
    (hyi : m.readNat 64 32 = yi.val) (hyr : m.readNat 96 32 = yr.val) : loadG2 m = .ok ⟨false, ⟨xr, xi⟩, ⟨yr, yi⟩⟩ := by
  rw [loadG2, loadFp_eq_ok.mpr hxi, loadFp_eq_ok.mpr hxr, loadFp_eq_ok.mpr hyi, loadFp_eq_ok.mpr hyr]
  rfl

theorem loadG1_of_limbs {m : Memory} {x y : Fp} (hx : m.readNat 0 32 = x.val) (hy : m.readNat 32 32 = y.val) :
    loadG1 m = .ok ⟨x, y⟩ := by
  rw [loadG1, loadFp_eq_ok.mpr hx, loadFp_eq_ok.mpr hy]
  rfl

/-- Settles O30: the point LDP loads, by I[0]. -/
theorem ldpLoadsPoint : Obligations.LdpLoadsPoint := by
  intro d i s hd hdlt hi
  have hexec {pt : G2Point} (hpt : loadG2OrInf s.data i = .ok pt) :=
    exec_of_effect (i := .ldp d i) ⟨hd, decide_eq_true hdlt, decide_eq_true hi, pt, hpt, rfl⟩
  refine ⟨fun hinf => hexec (if_pos hinf), fun hfin xi xr yi yr hxi hxr hyi hyr => hexec ?_⟩
  rw [loadG2OrInf, if_neg (Bool.eq_false_iff.mp hfin)]
  exact loadG2_of_limbs hxi hxr hyi hyr

/-- Settles O32: the two limbs of a G1 point. -/
theorem ldqLoadsPoint : Obligations.LdqLoadsPoint := by
  intro d s x y hd hdlt hx hy
  exact exec_of_effect (i := .ldq d) ⟨hd, decide_eq_true hdlt, _, loadG1_of_limbs hx hy, rfl⟩

/-! ## Points stored to DATA (42_pairing.md R231) -/

/-- A stored field element reads back: it is below q, so its 32 bytes hold it whole. -/
theorem Memory.readNat_writeLimbs_fp {m : Memory} (hm : m.wf) (ls : List Fp) {j : Nat} (hj : j < ls.length) :
    (m.writeLimbs 0 (ls.map fun l => l.val)).readNat (32 * j) 32 = ls[j].val := by
  have hread := Memory.readNat_writeLimbs hm 0 (ls.map fun l => l.val) j (by simpa using hj)
  have hlt : ls[j].val < 256 ^ 32 := Nat.lt_trans ls[j].isLt (by decide)
  rwa [Nat.zero_add, List.getElem_map, Nat.mod_eq_of_lt hlt] at hread

theorem read_storeG2_of_inf {m : Memory} (hm : m.wf) {pt : G2Point} (h : pt.inf = true) {o : Nat} (ho : o < 128) :
    (storeG2 m pt).read o = 0#8 := by
  rw [storeG2, if_pos h]
  have hread := Memory.read_writeNat_inside hm 0 0 ho
  rwa [Nat.zero_add, Nat.zero_div] at hread

theorem storeG2_of_finite (m : Memory) {pt : G2Point} (h : pt.inf = false) :
    storeG2 m pt = m.writeLimbs 0 ([pt.x.x1, pt.x.x0, pt.y.x1, pt.y.x0].map fun l => l.val) := by
  rw [storeG2, if_neg (Bool.eq_false_iff.mp h)]
  rfl

/-- Settles O31: the bytes of the zero number for infinity, and the four limbs of a finite point, read back. -/
theorem stpStoresPointAndMarker : Obligations.StpStoresPointAndMarker := by
  intro a s pt hd hwf ha hp
  refine ⟨storeG2 s.data pt, ?_, fun _ => read_storeG2_other, fun hinf _ => read_storeG2_of_inf hwf hinf, fun hfin => ?_⟩
  · exact exec_of_effect (i := .stp a) ⟨hd, decide_eq_true ha, pt, hp, rfl⟩
  · have hlimb {j : Nat} (hj : j < 4) := Memory.readNat_writeLimbs_fp hwf [pt.x.x1, pt.x.x0, pt.y.x1, pt.y.x0] hj
    rw [storeG2_of_finite s.data hfin]
    exact ⟨hlimb (j := 0) (by decide), hlimb (j := 1) (by decide), hlimb (j := 2) (by decide), hlimb (j := 3) (by decide)⟩

/-! ## The loop written out from R240 is the model's -/

/-- One iteration as a sequence of Steps. -/
theorem millerIter_eq_bind (p : Affine2) (g : G1Point) : millerIter p g = fun acc i =>
    millerStep ⟨acc.f.square, acc.pt⟩ acc.pt g >>= fun doubled =>
      if Config.loopScalar.testBit i then millerStep doubled p g else .ok doubled := by
  funext acc i
  unfold millerIter
  cases millerStep ⟨acc.f.square, acc.pt⟩ acc.pt g <;> rfl

theorem millerLoop_eq_foldlM (p : Affine2) (g : G1Point) (is : List Nat) (acc : MillerAcc) :
    millerLoop p g is acc = is.foldlM (millerIter p g) acc := by
  induction is generalizing acc with
  | nil => rfl
  | cons i is ih =>
    rw [millerLoop, List.foldlM_cons]
    cases millerIter p g acc i with
    | error c => rfl
    | ok acc' => exact ih acc'

/-- The correction as a sequence of Steps. -/
theorem millerCorrect_eq_bind (f : Fp2) (p : Affine2) (g : G1Point) (acc : MillerAcc) :
    millerCorrect f p g acc = millerStep acc (frobAffine f p) g >>= fun first =>
      millerStep first ⟨(frobAffine f (frobAffine f p)).x, (frobAffine f (frobAffine f p)).y.neg⟩ g := by
  unfold millerCorrect
  dsimp only
  cases millerStep acc (frobAffine f p) g <;> rfl

theorem millerValue_of_inf {f : Fp2} {pt : G2Point} {g : G1Point} (h : pt.inf = true) :
    millerValue f pt g = .error .pair :=
  if_pos h

/-- MILLER-value of a finite point: the loop, the correction, and the check of the final f. -/
theorem millerValue_of_finite {f : Fp2} {pt : G2Point} {g : G1Point} (h : pt.inf = false) :
    millerValue f pt g =
      millerLoop ⟨pt.x, pt.y⟩ g (downFrom (bitlen Config.loopScalar - 1)) ⟨Fp12.one, ⟨pt.x, pt.y⟩⟩ >>= fun looped =>
        millerCorrect f ⟨pt.x, pt.y⟩ g looped >>= fun last =>
          if last.f = Fp12.zero then .error .pair else .ok last.f := by
  rw [millerValue, if_neg (Bool.eq_false_iff.mp h)]
  dsimp only
  cases millerLoop ⟨pt.x, pt.y⟩ g (downFrom (bitlen Config.loopScalar - 1)) ⟨Fp12.one, ⟨pt.x, pt.y⟩⟩ with
  | error c => rfl
  | ok looped =>
    rw [ok_bind]
    dsimp only
    cases millerCorrect f ⟨pt.x, pt.y⟩ g looped <;> rfl

theorem loopScalar_eq : Config.loopScalar = 0x2400000000215D93E := by decide

/-- The positions 64 to 0 are those below the top bit of 6t + 2 (42_pairing.md R239). -/
theorem range_reverse_eq_downFrom : (List.range 65).reverse = downFrom (bitlen Config.loopScalar - 1) := by decide

theorem millerByRule_eq_millerValue (f : Fp2) (pt : G2Point) (g : G1Point) : millerByRule f pt g = millerValue f pt g := by
  cases hinf : pt.inf with
  | true => rw [millerByRule, if_pos hinf, millerValue_of_inf hinf]
  | false =>
    rw [millerByRule, if_neg (Bool.eq_false_iff.mp hinf), millerValue_of_finite hinf, range_reverse_eq_downFrom]
    simp only [millerLoop_eq_foldlM, millerIter_eq_bind, millerCorrect_eq_bind, frobAffine_eq, bind_assoc, loopScalar_eq,
      Fp12.square]

/-! ## The loop fails with E_PAIR alone (42_pairing.md R238, R240) -/

/-- The computation has a value or fails with E_PAIR. -/
def FailsOnlyPair {α : Type} (r : Except ErrorCode α) : Prop := ∀ c, r = .error c → c = .pair

theorem FailsOnlyPair.ok {α : Type} (v : α) : FailsOnlyPair (.ok v) := fun _ h => nomatch h

theorem FailsOnlyPair.error {α : Type} : FailsOnlyPair (.error .pair : Except ErrorCode α) := fun _ h => (Except.error.inj h).symm

theorem FailsOnlyPair.ite {α : Type} {b : Prop} [Decidable b] {r r' : Except ErrorCode α} (hr : FailsOnlyPair r)
    (hr' : FailsOnlyPair r') : FailsOnlyPair (if b then r else r') := by
  split
  · exact hr
  · exact hr'

theorem FailsOnlyPair.bind {α β : Type} {r : Except ErrorCode α} {k : α → Except ErrorCode β} (hr : FailsOnlyPair r)
    (hk : ∀ v, FailsOnlyPair (k v)) : FailsOnlyPair (r >>= k) := by
  cases r with
  | error c => exact fun _ h => hr _ (by simpa using h)
  | ok v => exact hk v

theorem failsOnlyPair_stepSlope (tt ss : Affine2) : FailsOnlyPair (stepSlope tt ss) :=
  .ite (.ite .error (.ok _)) (.ok _)

theorem millerStep_eq_bind (acc : MillerAcc) (ss : Affine2) (g : G1Point) : millerStep acc ss g =
    stepSlope acc.pt ss >>= fun l => .ok ⟨acc.f.mul (lineValue acc.pt l g), stepPoint acc.pt ss l⟩ := by
  unfold millerStep
  cases stepSlope acc.pt ss <;> rfl

theorem failsOnlyPair_millerStep (acc : MillerAcc) (ss : Affine2) (g : G1Point) : FailsOnlyPair (millerStep acc ss g) := by
  rw [millerStep_eq_bind]
  exact (failsOnlyPair_stepSlope _ _).bind fun _ => .ok _

theorem failsOnlyPair_millerIter (p : Affine2) (g : G1Point) (acc : MillerAcc) (i : Nat) :
    FailsOnlyPair (millerIter p g acc i) := by
  rw [millerIter_eq_bind]
  exact (failsOnlyPair_millerStep _ _ _).bind fun _ => .ite (failsOnlyPair_millerStep _ _ _) (.ok _)

theorem failsOnlyPair_millerLoop (p : Affine2) (g : G1Point) (is : List Nat) (acc : MillerAcc) :
    FailsOnlyPair (millerLoop p g is acc) := by
  rw [millerLoop_eq_foldlM]
  induction is generalizing acc with
  | nil => exact .ok acc
  | cons i is ih =>
    rw [List.foldlM_cons]
    exact (failsOnlyPair_millerIter _ _ _ _).bind ih

theorem failsOnlyPair_millerValue (f : Fp2) (pt : G2Point) (g : G1Point) : FailsOnlyPair (millerValue f pt g) := by
  cases hinf : pt.inf with
  | true => rw [millerValue_of_inf hinf]; exact .error
  | false =>
    rw [millerValue_of_finite hinf]
    refine (failsOnlyPair_millerLoop _ _ _ _).bind fun looped => .bind ?_ fun last => .ite .error (.ok _)
    rw [millerCorrect_eq_bind]
    exact (failsOnlyPair_millerStep _ _ _).bind fun _ => failsOnlyPair_millerStep _ _ _

/-! ## MILLER, FEXP and PAIR (42_pairing.md R240, R245, R247) -/

theorem smallIndex_of_lt {r : RegIx} (h : r.toNat < 4) : smallIndex r = true := by
  rw [smallIndex_iff]
  exact decide_eq_true h

/-- MILLER on operands that are there: the loop decides how it ends. -/
theorem exec_miller {d a b : RegIx} {s : State} {pt : G2Point} {g : G1Point} {f : Fp2} (hd : s.initDone = true)
    (ha : a.toNat < 4) (hb : b.toNat < 4) (hp : s.readP a = .ok pt) (hq : s.readQ b = .ok g) (hf : s.f = some f) :
    exec (.miller d a b) s = s.conclude (millerValue f pt g >>= fun v => .ok (s.writeX d (Tagged.miller v))) := by
  have hgate : s.gate (smallIndex a && smallIndex b) = .ok () :=
    gate_of_ready (by rw [smallIndex_of_lt ha, smallIndex_of_lt hb]; rfl) hd
  change execMiller d a b s = _
  rw [execMiller, hgate, hp, hq, readF_eq_ok.mpr hf]
  rfl

/-- Settles O36: the loop written out is the model's, and what it answers decides between the effect and the error entry. -/
theorem millerWritesMillerValue : Obligations.MillerWritesMillerValue := by
  intro d a b s pt g f hd ha hb hp hq hf
  rw [millerByRule_eq_millerValue, exec_miller hd ha hb hp hq hf, FailsWith, exec_miller hd ha hb hp hq hf]
  constructor
  · intro v hv
    rw [hv]
    rfl
  · intro c hc
    obtain rfl := failsOnlyPair_millerValue f pt g c hc
    rw [hc]
    exact ⟨rfl, rfl⟩

/-- The exact power is the product of `e` factors, 1 for e = 0. -/
theorem Fp12.pow_eq_nthPower (x : Fp12) (e : Nat) : x.pow e = x.nthPower e := by
  by_cases he : e = 0
  · rw [Fp12.pow, if_pos he, he]
    rfl
  · let := fp12Monoid
    rw [Fp12.pow, if_neg he, Fp12.nthPower_eq_pow]
    exact squareMultiply_eq_pow x he

theorem fexpValue_eq_nthPower (x : Fp12) : fexpValue x = x.nthPower ((Config.q ^ 12 - 1) / Config.N) :=
  Fp12.pow_eq_nthPower x Config.finalExponent

/-- FEXP of a nonzero value completes with its FEXP-value. -/
theorem exec_fexp {d a : RegIx} {s : State} {x : Tagged} (hd : s.initDone = true) (hx : s.readX a = .ok x)
    (hne : x.val ≠ Fp12.zero) : exec (.fexp d a) s = .next (s.writeX d (Tagged.unitary (fexpValue x.val))).complete :=
  exec_of_effect (i := .fexp d a) ⟨hd, x, hx, hne, rfl⟩

/-- Settles O39: FEXP-value as a product of factors. -/
theorem fexpIsExactPower : Obligations.FexpIsExactPower := by
  intro d a s x hd hx hne
  rw [exec_fexp hd hx hne, fexpValue_eq_nthPower]
  rfl

/-- The loop fails for a final f of 0, so its value has an inverse for FEXP. -/
theorem ne_zero_of_millerValue {f : Fp2} {pt : G2Point} {g : G1Point} {v : Fp12} (h : millerValue f pt g = .ok v) :
    v ≠ Fp12.zero := by
  cases hinf : pt.inf with
  | true => rw [millerValue_of_inf hinf] at h; cases h
  | false =>
    rw [millerValue_of_finite hinf] at h
    obtain ⟨looped, -, h⟩ := bind_eq_ok.mp h
    obtain ⟨last, -, h⟩ := bind_eq_ok.mp h
    split at h
    · cases h
    · next hne =>
      obtain rfl := Except.ok.inj h
      exact hne

theorem pairValue_of_millerValue {f : Fp2} {pt : G2Point} {g : G1Point} {v : Fp12} (h : millerValue f pt g = .ok v) :
    pairValue f pt g = .ok (fexpValue v) := by
  rw [pairValue, h]

/-- Settles O40: PAIR writes the FEXP-value of the loop's value, and FEXP the same from MILLER's register. -/
theorem pairIsFexpOfMiller : Obligations.PairIsFexpOfMiller := by
  intro d a b s pt g f v hd ha hb hp hq hf hv
  rw [millerByRule_eq_millerValue] at hv
  have hpair := exec_of_effect (i := .pair d a b)
    ⟨hd, decide_eq_true ha, decide_eq_true hb, pt, g, f, _, hp, hq, hf, pairValue_of_millerValue hv, rfl⟩
  have hmiller : exec (.miller d a b) s = .next (s.writeX d (Tagged.miller v)).complete := by
    rw [exec_miller hd ha hb hp hq hf, hv, ok_bind, conclude_ok]
  have hfexp := exec_fexp (d := d) (s := (s.writeX d (Tagged.miller v)).complete) hd (readX_writeX_complete s d _)
    (ne_zero_of_millerValue hv)
  exact ⟨fexpValue v, fexpValue_eq_nthPower v, hpair, _, _, hmiller, hfexp, readX_writeX_complete _ d _⟩

/-! ## MEMBER (42_pairing.md R250) -/

theorem powValue_natCast (x : Fp12) (u : Bool) {e : Nat} (he : e ≠ 0) : powValue x u e = .ok (powChain x u e) := by
  rw [powValue, if_neg (by simpa using he), if_neg (by simp), Int.natAbs_natCast]

theorem memberValue_zero (f : Fp2) (u : Bool) : memberValue f Fp12.zero u = false := if_pos rfl

/-- For a nonzero value the answer compares φ(x) with the three powers. -/
theorem memberValue_of_ne_zero {f : Fp2} {x : Fp12} {u : Bool} (h : x ≠ Fp12.zero) :
    memberValue f x u = true ↔ x.phi f = powChain (powChain (powChain x u Config.t) u Config.t) u 6 := by
  rw [memberValue, if_neg h, decide_eq_true_iff]
  rfl

/-- Settles O41: MEMBER's answer for zero, and for another value with POW-values as the chains. -/
theorem memberComparesFrobenius : Obligations.MemberComparesFrobenius := by
  intro a s x f hd hx hf
  refine ⟨memberValue f x.val x.u, exec_of_effect (i := .member a) ⟨hd, x, f, hx, hf, rfl⟩, fun hz => ?_, ?_⟩
  · rw [hz, memberValue_zero]
  · intro hne p1 p2 p3 h1 h2 h3
    have ht : Config.t ≠ 0 := by decide
    obtain rfl := Except.ok.inj ((powValue_natCast _ _ ht).symm.trans h1)
    obtain rfl := Except.ok.inj ((powValue_natCast _ _ ht).symm.trans h2)
    obtain rfl := Except.ok.inj ((powValue_natCast _ _ (e := 6) (by decide)).symm.trans h3)
    exact memberValue_of_ne_zero hne

end Sys2Proof.Machine
end

section
/-! SUPPORT. The system family: the one encoding of NOP, the illegal words beside it, and what is refused before INIT
(43_system.md R280). -/

namespace Sys2Proof

/-! ## NOP's encoding -/

theorem opField_encode (i : Instr) : (encode i).opField = i.opcode := by
  cases i <;> exact opField_packWord ..

theorem opcode_eq_zero_iff (i : Instr) : i.opcode = 0x00#8 ↔ i = .nop := by
  cases i <;> simp [Instr.opcode]

theorem decode_eq_nop_iff (w : Word) : decode w = some .nop ↔ w = 0x00000000#32 := by
  constructor
  · intro h
    obtain ⟨-, henc⟩ := encodeOfDecode w .nop h
    exact henc.symm
  · rintro rfl
    exact decode_encode (i := .nop) rfl

/-- A legal word is the encoding of its command, so OP = 0 leaves NOP's word alone. -/
theorem decode_eq_none_of_opField_zero {w : Word} (hop : w.opField = 0x00#8) (hw : w ≠ 0x00000000#32) : decode w = none := by
  refine Option.eq_none_iff_forall_ne_some.mpr fun c hc => hw ?_
  obtain ⟨-, henc⟩ := encodeOfDecode w c hc
  have hopcode : c.opcode = 0x00#8 := by rw [← opField_encode, henc, hop]
  obtain rfl := (opcode_eq_zero_iff c).mp hopcode
  exact (decode_eq_nop_iff w).mp hc

end Sys2Proof

namespace Sys2Proof.Machine

/-! ## The steps of NOP, of an illegal word and of a command before INIT -/

theorem exec_nop (s : State) : exec .nop s = .next s.complete := exec_of_effect (i := .nop) rfl

/-- A due step on an illegal word is the error entry with E_ILLEGAL (60_exceptions.md R301). -/
theorem step_of_illegal {s : State} {w : Word} (hl : s.latch = some ⟨w, 0⟩) (hdec : decode w = none) :
    step s = .next { s with err := some .illegal, errcmd := w, latch := none } := by
  rw [step_of_due hl, performWord, hdec]
  simp only [conclude_error, State.fail, State.latchedWord, hl]

/-- Only NOP and INIT have an effect before INIT_DONE = 1 (60_exceptions.md R302). -/
theorem Effect.initDone {s e : State} {i : Instr} (h : Effect s e i) (hnop : i ≠ .nop) (hinit : i ≠ .init) :
    s.initDone = true := by
  cases effectForm_of_effect h with
  | nothing hi => exact absurd hi hnop
  | init hi => exact absurd hi hinit
  | writeX _ _ _ hd | writeP _ _ _ hd _ | writeQ _ _ _ hd | writeK _ _ _ hd | storeX _ _ hd | storeP _ _ _ hd
  | result _ _ hd => exact hd

theorem failsWith_of_not_initDone {i : Instr} {s : State} (hnop : i ≠ .nop) (hinit : i ≠ .init) (hd : s.initDone = false) :
    ∃ c, FailsWith i s c := by
  obtain ⟨t, ht⟩ := exec_next i s
  obtain ⟨e, heff, -⟩ | ⟨c, rfl⟩ := exec_cases ht
  · exact absurd (heff.initDone hnop hinit) (Bool.eq_false_iff.mp hd)
  · exact ⟨c, ht⟩

/-- Settles O9: NOP's effect is none, its word is the only legal one with its OP, and every other command but INIT fails before
INIT. -/
theorem nopChangesOnlyHandshake : Obligations.NopChangesOnlyHandshake := by
  refine ⟨exec_nop, decode_eq_nop_iff, fun w s hop hw hl => step_of_illegal hl (decode_eq_none_of_opField_zero hop hw),
    fun _ _ => failsWith_of_not_initDone, ?_⟩
  have hstep := stepPerformsLatchedCommand (State.reset.withCommand 0x00000000#32) _ .nop rfl ((decode_eq_nop_iff _).mpr rfl)
  exact ⟨_, hstep.trans (exec_nop _), rfl⟩

end Sys2Proof.Machine
end

section
/-! SUPPORT. The exceptions family: which check of a command fails first, and the error entry it ends in (60_exceptions.md). -/

namespace Sys2Proof.Machine

/-! ## The error entry (60_exceptions.md R310) -/

/-- An effect keeps ERR, so a due step that ends with ERR = 1 is the error entry. -/
theorem step_eq_fail {s t : State} {w : Word} {c : ErrorCode} (hl : s.latch = some ⟨w, 0⟩) (hs : s.err = none)
    (hstep : step s = .next t) (hc : t.err = some c) : t = s.fail c := by
  rw [step_of_due hl] at hstep
  obtain ⟨i, e, heff, rfl⟩ | ⟨c', rfl⟩ := performWord_cases hstep
  · obtain ⟨he, -⟩ := (effectForm_of_effect heff).frame
    rw [State.complete_err, he, hs] at hc
    cases hc
  · obtain rfl := Option.some.inj hc
    rfl

/-- Settles O43: the step is the error entry, with the latched word. -/
theorem failedCommandCommitsNothing : Obligations.FailedCommandCommitsNothing := by
  intro s t w c hl hs hstep hc
  refine ⟨?_, errcode_of_some hc, ?_⟩
  · rw [step_eq_fail hl hs hstep hc, State.fail, latchedWord_of_latch hl]
  · rw [step_eq_fail hl hs hstep hc, fail_busy]

/-- Settles O5: a word that matches no row decodes to no command. -/
theorem illegalWordRaisesIllegal : Obligations.IllegalWordRaisesIllegal := by
  intro s w hl hrow
  obtain ⟨hlegal, -⟩ := legalWordMatchesExactlyOneRow w
  refine step_of_illegal hl (Option.not_isSome_iff_eq_none.mp fun hsome => ?_)
  rw [hlegal hsome] at hrow
  cases hrow

/-! ## Sequences of checks (60_exceptions.md R308) -/

section

variable {α β : Type} {r : Except ErrorCode α} {k : α → Except ErrorCode β} {c : ErrorCode}

theorem bind_of_ok {v : α} {r' : Except ErrorCode β} (hr : r = .ok v) (hk : k v = r') : (r >>= k) = r' := by
  rw [hr, ok_bind, hk]

theorem bind_of_error (hr : r = .error c) : (r >>= k) = .error c := by
  rw [hr, error_bind]

/-- The computation fails with `c` when any of `xs` is bad. -/
def FailsOnAny {ι : Type} (bad : ι → Prop) (c : ErrorCode) (xs : List ι) (r : Except ErrorCode α) : Prop :=
  (∃ x ∈ xs, bad x) → r = .error c

theorem FailsOnAny.nil {ι : Type} {bad : ι → Prop} : FailsOnAny bad c [] r := fun ⟨_, hx, _⟩ => nomatch hx

/-- A first check that fails with `c` for a bad `x`, and with nothing else, comes before the checks of `xs`. -/
theorem FailsOnAny.cons {ι : Type} {bad : ι → Prop} {x : ι} {xs : List ι} (hbad : bad x → r = .error c)
    (honly : ∀ c', r = .error c' → c' = c) (hk : ∀ v, FailsOnAny bad c xs (k v)) :
    FailsOnAny bad c (x :: xs) (r >>= k) := by
  rintro ⟨y, hy, hby⟩
  cases hr : r with
  | error c' => rw [honly c' hr, error_bind]
  | ok v =>
    obtain rfl | hy := List.mem_cons.mp hy
    · rw [hbad hby] at hr
      cases hr
    · exact hk v ⟨y, hy, hby⟩

end

theorem failsWith_of_error {i : Instr} {s : State} {r : Except ErrorCode State} {c : ErrorCode}
    (hexec : exec i s = s.conclude r) (hr : r = .error c) : FailsWith i s c := by
  rw [FailsWith, hexec, hr]
  rfl

/-- A command fails with the error that follows its two first checks, when these pass. -/
theorem failsWith_of_gate {i : Instr} {s : State} {legal : Bool} {body : Except ErrorCode State} {c : ErrorCode}
    (hexec : exec i s = s.conclude (s.gate legal >>= fun _ => body)) (hl : legal = true) (hd : s.initDone = true)
    (hbody : body = .error c) : FailsWith i s c :=
  failsWith_of_error hexec (bind_of_ok (gate_of_ready hl hd) hbody)

/-! ## Unwritten sources (60_exceptions.md R303) -/

/-- The computation raises E_UNWRITTEN when any of the registers is unwritten. -/
abbrev ReadsFirst (s : State) (refs : List RegRef) (r : Except ErrorCode State) : Prop :=
  FailsOnAny (fun ref => s.written ref = false) .unwritten refs r

section

variable {α : Type} {n : Nat} {file : Vector (Option α) n} {i : RegIx}

theorem fileRead_of_unwritten (hi : i.toNat < n) (h : (file[i.toNat]?.getD none).isSome = false) :
    fileRead file i = .error .unwritten := by
  obtain ⟨v, -, hv⟩ | ⟨hr, -⟩ := fileRead_cases file hi
  · simp [hv] at h
  · exact hr

theorem eq_unwritten_of_fileRead {c : ErrorCode} (hi : i.toNat < n) (h : fileRead file i = .error c) : c = .unwritten := by
  obtain ⟨v, hv, -⟩ | ⟨hr, -⟩ := fileRead_cases file hi
  · cases hv.symm.trans h
  · exact (Except.error.inj (hr.symm.trans h)).symm

end

section

variable {s : State} {i : RegIx} {refs : List RegRef}

/-- A read of entry `i` of `file`, which is the register `ref`, comes before the checks of `refs`. -/
theorem ReadsFirst.read {α : Type} {n : Nat} {file : Vector (Option α) n} {ref : RegRef} {k : α → Except ErrorCode State}
    (hi : i.toNat < n) (href : s.written ref = (file[i.toNat]?.getD none).isSome) (hk : ∀ v, ReadsFirst s refs (k v)) :
    ReadsFirst s (ref :: refs) (fileRead file i >>= k) :=
  .cons (fun h => fileRead_of_unwritten hi (href.symm.trans h)) (fun _ => eq_unwritten_of_fileRead hi) hk

theorem ReadsFirst.x {k : Tagged → Except ErrorCode State} (hk : ∀ v, ReadsFirst s refs (k v)) :
    ReadsFirst s (.x i :: refs) (s.readX i >>= k) :=
  .read i.isLt rfl hk

theorem ReadsFirst.p {k : G2Point → Except ErrorCode State} (hi : i.inSmallFile = true) (hk : ∀ v, ReadsFirst s refs (k v)) :
    ReadsFirst s (.p i :: refs) (s.readP i >>= k) :=
  .read (of_decide_eq_true hi) rfl hk

theorem ReadsFirst.q {k : G1Point → Except ErrorCode State} (hi : i.inSmallFile = true) (hk : ∀ v, ReadsFirst s refs (k v)) :
    ReadsFirst s (.q i :: refs) (s.readQ i >>= k) :=
  .read (of_decide_eq_true hi) rfl hk

theorem ReadsFirst.k {k : Exponent → Except ErrorCode State} (hi : i.inSmallFile = true) (hk : ∀ v, ReadsFirst s refs (k v)) :
    ReadsFirst s (.k i :: refs) (s.readK i >>= k) :=
  .read (of_decide_eq_true hi) rfl hk

end

/-! ## The order of the checks (60_exceptions.md R308) -/

/-- The command checks its encoding and INIT_DONE, then reads its sources, before anything else. -/
def ChecksInOrder (i : Instr) (s : State) : Prop :=
  ∃ legal body, exec i s = s.conclude (s.gate legal >>= fun _ => body) ∧ legal = i.wellFormed ∧
    (i.WellFormed → ReadsFirst s i.reads body)

theorem checksInOrder {i : Instr} (s : State) (hnop : i ≠ .nop) (hinit : i ≠ .init) : ChecksInOrder i s := by
  cases i with
  | nop => exact absurd rfl hnop
  | init => exact absurd rfl hinit
  | set1 d => exact ⟨_, _, rfl, rfl, fun _ => .nil⟩
  | ldx d i => exact ⟨_, _, rfl, tagsImm_iff i, fun _ => .nil⟩
  | ldk d i | ldp d i => exact ⟨_, _, rfl, congrArg₂ and (smallIndex_iff d) (bitImm_iff i), fun _ => .nil⟩
  | ldq d => exact ⟨_, _, rfl, smallIndex_iff d, fun _ => .nil⟩
  | stx a | mov d a | sqr d a | conj d a | inv d a | frob d a i | fexp d a | member a =>
    exact ⟨_, _, rfl, rfl, fun _ => .x fun _ => .nil⟩
  | eq a b | mul d a b | div d a b => exact ⟨_, _, rfl, rfl, fun _ => .x fun _ => .x fun _ => .nil⟩
  | tag d i => exact ⟨_, _, rfl, tagsImm_iff i, fun _ => .x fun _ => .nil⟩
  | pow d a b => exact ⟨_, _, rfl, smallIndex_iff b, fun hb => .x fun _ => .k hb fun _ => .nil⟩
  | stp a => exact ⟨_, _, rfl, smallIndex_iff a, fun ha => .p ha fun _ => .nil⟩
  | frobp d a =>
    exact ⟨_, _, rfl, congrArg₂ and (smallIndex_iff d) (smallIndex_iff a), fun h => .p (Bool.and_elim_right h) fun _ => .nil⟩
  | miller d a b | pair d a b =>
    exact ⟨_, _, rfl, congrArg₂ and (smallIndex_iff a) (smallIndex_iff b),
      fun h => .p (Bool.and_elim_left h) fun _ => .q (Bool.and_elim_right h) fun _ => .nil⟩

theorem failsWith_reinit {s : State} (hd : s.initDone = true) : FailsWith .init s .reinit := by
  have hcheck : require (!s.initDone) .reinit = .error .reinit := by rw [hd]; rfl
  exact failsWith_of_error rfl (bind_of_error hcheck)

/-- Settles O45: NOP and INIT are always well-formed and read no register; every other command checks in the order of R308. -/
theorem checksComeInOrder : Obligations.ChecksComeInOrder := by
  intro i s
  by_cases hsystem : i = .nop ∨ i = .init
  · have hwf : i.WellFormed := by obtain rfl | rfl := hsystem <;> rfl
    have hreads : i.reads = [] := by obtain rfl | rfl := hsystem <;> rfl
    refine ⟨fun h => absurd hwf h, fun _ hnop hinit => absurd hsystem (not_or.mpr ⟨hnop, hinit⟩), ?_, ?_⟩
    · rintro rfl hd
      exact failsWith_reinit hd
    · rintro - - ⟨r, hr, -⟩
      rw [hreads] at hr
      cases hr
  · obtain ⟨hnop, hinit⟩ := not_or.mp hsystem
    obtain ⟨legal, body, hexec, rfl, hreads⟩ := checksInOrder s hnop hinit
    refine ⟨fun hwf => ?_, fun hwf _ _ hd => ?_, fun h => absurd h hinit, fun hwf hd hun => ?_⟩
    · exact failsWith_of_error hexec (bind_of_error (gate_of_illegal (Bool.eq_false_iff.mpr hwf)))
    · exact failsWith_of_error hexec (bind_of_error (gate_of_notInit hwf hd))
    · exact failsWith_of_gate hexec hwf hd (hreads hwf hun)

/-! ## Unreduced limbs (60_exceptions.md R304) -/

/-- The load raises E_RANGE when any of the limbs at offsets 32·j, for `j` in `js`, is q or more. -/
abbrev LimbsFirst {α : Type} (m : Memory) (js : List Nat) (r : Except ErrorCode α) : Prop :=
  FailsOnAny (fun j => Config.q ≤ m.readNat (32 * j) 32) .range js r

theorem LimbsFirst.limb {α : Type} {m : Memory} {j : Nat} {js : List Nat} {k : Fp → Except ErrorCode α}
    (hk : ∀ v, LimbsFirst m js (k v)) : LimbsFirst m (j :: js) (loadFp m (32 * j) >>= k) :=
  .cons (fun h => loadFp_eq_error.mpr ⟨rfl, h⟩) (fun _ h => (loadFp_eq_error.mp h).1) hk

theorem limbsFirst_loadFp12 (m : Memory) : LimbsFirst m (List.range 12) (loadFp12 m) :=
  .limb fun _ => .limb fun _ => .limb fun _ => .limb fun _ => .limb fun _ => .limb fun _ =>
    .limb fun _ => .limb fun _ => .limb fun _ => .limb fun _ => .limb fun _ => .limb fun _ => .nil

theorem limbsFirst_loadG2 (m : Memory) : LimbsFirst m (List.range 4) (loadG2 m) :=
  .limb fun _ => .limb fun _ => .limb fun _ => .limb fun _ => .nil

theorem limbsFirst_loadG1 (m : Memory) : LimbsFirst m (List.range 2) (loadG1 m) :=
  .limb fun _ => .limb fun _ => .nil

/-- Settles O33: the limbs each load checks, and LDK's effect, which has no check of the limb. -/
theorem unreducedLimbFailsLoad : Obligations.UnreducedLimbFailsLoad := by
  intro d i s j hd hlimb
  refine ⟨fun hj hi => ?_, fun hj hdlt hi => ?_, fun hj hdlt => ?_, fun hdlt hi => ?_⟩
  · have hload := limbsFirst_loadFp12 s.data ⟨j, List.mem_range.mpr hj, hlimb⟩
    exact failsWith_of_gate rfl ((tagsImm_iff i).trans (decide_eq_true hi)) hd (bind_of_error hload)
  · have hload : loadG2OrInf s.data i = .error .range := by
      rw [hi]
      exact limbsFirst_loadG2 s.data ⟨j, List.mem_range.mpr hj, hlimb⟩
    refine failsWith_of_gate rfl ?_ hd (bind_of_error hload)
    rw [smallIndex_of_lt hdlt, hi]
    rfl
  · have hload := limbsFirst_loadG1 s.data ⟨j, List.mem_range.mpr hj, hlimb⟩
    exact failsWith_of_gate rfl (smallIndex_of_lt hdlt) hd (bind_of_error hload)
  · exact ⟨_, exec_of_effect (i := .ldk d i) ⟨hd, decide_eq_true hdlt, decide_eq_true hi, rfl⟩⟩

/-! ## The inverse of zero (60_exceptions.md R305) -/

theorem invValue_zero : invValue Fp12.zero false = .error .zeroInv := by
  rw [invValue, if_neg Bool.false_ne_true, if_pos rfl]

theorem powValue_zero_of_neg {k : Int} (hk : k < 0) : powValue Fp12.zero false k = .error .zeroInv := by
  rw [powValue, if_neg hk.ne, if_pos hk, invValue_zero]

/-- The conjugate is a base for any negative exponent. -/
theorem powValue_of_unitary (x : Fp12) (k : Int) : ∃ v, powValue x true k = .ok v := by
  unfold powValue
  split
  · exact ⟨_, rfl⟩
  · split
    · rw [invValue_of_unitary]
      exact ⟨_, rfl⟩
    · exact ⟨_, rfl⟩

/-- Settles O29: INV-value and POW-value of zero with U = 0, FEXP's own check, and the conjugate with U = 1. -/
theorem inverseOfZeroFails : Obligations.InverseOfZeroFails := by
  rintro d a b s ⟨v, u, m⟩ hd hx
  refine ⟨?_, ?_, ?_, ?_, ?_, ?_, ?_⟩
  · rintro rfl rfl
    exact failsWith_of_gate rfl rfl hd (bind_of_ok hx (bind_of_error invValue_zero))
  · rintro y rfl rfl hy
    exact failsWith_of_gate rfl rfl hd (bind_of_ok hy (bind_of_ok hx (bind_of_error invValue_zero)))
  · rintro k rfl rfl hb hk hneg
    exact failsWith_of_gate rfl (smallIndex_of_lt hb) hd
      (bind_of_ok hx (bind_of_ok hk (bind_of_error (powValue_zero_of_neg hneg))))
  · rintro rfl
    exact failsWith_of_gate rfl rfl hd (bind_of_ok hx rfl)
  · rintro rfl
    exact exec_of_effect (i := .inv d a) ⟨hd, _, _, hx, invValue_of_unitary v, rfl⟩
  · rintro y rfl hy
    exact ⟨_, exec_of_effect (i := .div d b a) ⟨hd, _, _, _, hy, hx, invValue_of_unitary v, rfl⟩⟩
  · rintro k rfl hb hk
    obtain ⟨r, hr⟩ := powValue_of_unitary v k.toInt
    exact ⟨_, exec_pow hd hb hx hk hr⟩

/-! ## Degenerate pairing inputs (60_exceptions.md R306) -/

/-- The slope of the tangent at a point with y = 0 would invert zero (42_pairing.md R238). -/
theorem millerStep_double_of_y_zero {acc : MillerAcc} (g : G1Point) (hy : acc.pt.y = Fp2.zero) :
    millerStep acc acc.pt g = .error .pair := by
  rw [millerStep_eq_bind]
  refine bind_of_error ?_
  rw [stepSlope, if_pos rfl, if_pos (.inr hy)]

/-- The first iteration of the loop doubles the input point. -/
theorem millerValue_of_y_zero {f : Fp2} {pt : G2Point} {g : G1Point} (hy : pt.y = Fp2.zero) :
    millerValue f pt g = .error .pair := by
  cases hinf : pt.inf with
  | true => exact millerValue_of_inf hinf
  | false =>
    rw [millerValue_of_finite hinf, ← range_reverse_eq_downFrom, millerLoop_eq_foldlM]
    refine bind_of_error (bind_of_error ?_)
    rw [millerIter_eq_bind]
    exact bind_of_error (millerStep_double_of_y_zero g hy)

theorem pairValue_of_error {f : Fp2} {pt : G2Point} {g : G1Point} {c : ErrorCode} (h : millerValue f pt g = .error c) :
    pairValue f pt g = .error c := by
  rw [pairValue, h]

/-- Settles O38: each cause leaves the loop of R240 without a value, which is E_PAIR for both commands. -/
theorem degeneratePairingFails : Obligations.DegeneratePairingFails := by
  intro d a b s pt g f hd ha hb hp hq hf hcause
  have hvalue : millerValue f pt g = .error .pair := by
    obtain hinf | hy | ⟨c, hc⟩ := hcause
    · exact millerValue_of_inf hinf
    · exact millerValue_of_y_zero hy
    · rw [millerByRule_eq_millerValue] at hc
      obtain rfl := failsOnlyPair_millerValue f pt g c hc
      exact hc
  have hlegal : (smallIndex a && smallIndex b) = true := by
    rw [smallIndex_of_lt ha, smallIndex_of_lt hb]
    rfl
  have hF := readF_eq_ok.mpr hf
  constructor
  · exact failsWith_of_gate rfl hlegal hd (bind_of_ok hp (bind_of_ok hq (bind_of_ok hF (bind_of_error hvalue))))
  · have hpair := pairValue_of_error hvalue
    exact failsWith_of_gate rfl hlegal hd (bind_of_ok hp (bind_of_ok hq (bind_of_ok hF (bind_of_error hpair))))

end Sys2Proof.Machine
end

section
/-! SUPPORT. The reset family: the state right after reset (10_state.md I1, 70_reset_and_hazards.md R340). -/

namespace Sys2Proof.Machine

/-- Settles O60: reset leaves the reset input released, so the invariant is its two halves at the reset state. -/
theorem resetHasInvariant : Obligations.ResetHasInvariant :=
  inv_of_released State.reset_rstIn contentsOk_reset handshakeOk_reset

end Sys2Proof.Machine
end

section
/-! SUPPORT. INIT, SQR and the Miller Step case by case, the registers a command leaves as they are, and the laws of MUL's product
(43_system.md R282, 40_tower.md R160, R161, R170, 42_pairing.md R237, R238, 10_state.md). -/

namespace Sys2Proof.Machine

/-! ## The laws of the product (40_tower.md R170) -/

/-- Settles O18, by the laws of Fp12 as a commutative monoid. -/
theorem productIsAssociativeCommutative : Obligations.ProductIsAssociativeCommutative :=
  ⟨Fp12.mul_assoc, Fp12.mul_comm, Fp12.one_mul⟩

/-! ## SQR (40_tower.md R160, R161) -/

theorem sqrValue_of_exact (x : Fp12) : sqrValue x false = x.mul x := rfl

theorem sqrValue_of_unitary (x : Fp12) : sqrValue x true = x.gs := rfl

/-- Settles O19: SQR's effect, with the SQR-value that the U tag picks. -/
theorem sqrFollowsUnitaryTag : Obligations.SqrFollowsUnitaryTag := by
  intro d a s x hd hx
  have hexec := exec_of_effect (i := .sqr d a) ⟨hd, x, hx, rfl⟩
  constructor
  · intro hu
    rwa [hu, sqrValue_of_exact] at hexec
  · intro hu
    rwa [hu, sqrValue_of_unitary] at hexec

/-! ## A Miller Step (42_pairing.md R237, R238) -/

theorem millerStep_of_slope {acc : MillerAcc} {ss : Affine2} {l : Fp2} (g : G1Point) (h : stepSlope acc.pt ss = .ok l) :
    millerStep acc ss g = .ok ⟨acc.f.mul (lineValue acc.pt l g), stepPoint acc.pt ss l⟩ := by
  rw [millerStep_eq_bind, h, ok_bind]

theorem stepSlope_of_vertical {tt ss : Affine2} (hx : tt.x = ss.x) (hy : tt.y ≠ ss.y ∨ tt.y = Fp2.zero) :
    stepSlope tt ss = .error .pair := by
  rw [stepSlope, if_pos hx, if_pos hy]

theorem stepSlope_of_equal {tt ss : Affine2} (hx : tt.x = ss.x) (hy : tt.y = ss.y) (hne : tt.y ≠ Fp2.zero) :
    stepSlope tt ss = .ok (((tt.x.mul tt.x).scale (Fp.ofNat 3)).mul (tt.y.scale (Fp.ofNat 2)).inv) := by
  rw [stepSlope, if_pos hx, if_neg (not_or.mpr ⟨not_not.mpr hy, hne⟩)]

theorem stepSlope_of_chord {tt ss : Affine2} (hx : tt.x ≠ ss.x) :
    stepSlope tt ss = .ok ((ss.y.sub tt.y).mul (ss.x.sub tt.x).inv) := by
  rw [stepSlope, if_neg hx]

/-- Settles O37: a Step by its slope, which is an error for a vertical line, else the tangent's or the chord's. -/
theorem stepFoldsLineOrFails : Obligations.StepFoldsLineOrFails := by
  intro acc ss g
  refine ⟨fun hx hy => ?_, fun l hl => ?_⟩
  · rw [millerStep_eq_bind]
    exact bind_of_error (stepSlope_of_vertical hx hy)
  · have hslope : stepSlope acc.pt ss = .ok l := by
      obtain ⟨hx, hy, hne, rfl⟩ | ⟨hx, rfl⟩ := hl
      · exact stepSlope_of_equal hx hy hne
      · exact stepSlope_of_chord hx
    exact ⟨_, _, rfl, rfl, millerStep_of_slope g hslope⟩

/-! ## INIT (43_system.md R282) -/

theorem decode_eq_init_iff (w : Word) : decode w = some .init ↔ w = 0x00000001#32 := by
  constructor
  · intro h
    obtain ⟨-, henc⟩ := encodeOfDecode w .init h
    exact henc.symm
  · rintro rfl
    exact decode_encode (i := .init) rfl

theorem exec_init {s : State} (hd : s.initDone = false) :
    exec .init s = .next { s with f := some frobeniusConstant, initDone := true, latch := none, done := true } :=
  exec_of_effect (i := .init) ⟨hd, rfl⟩

/-- F's value is the spec's, a value of Fp (43_system.md R282). -/
theorem frobeniusConstant_eq : frobeniusConstant =
    ⟨Fp.ofNat 0x3F23EA58E5720BDB843C6CFA9C08674947C5C86E0DDD04EDA91D8354377B698B, Fp.zero⟩ := by
  decide +kernel

/-- The engine step on INIT's word. -/
theorem step_withCommand_init (s : State) :
    step (s.withCommand 0x00000001#32) = exec .init (s.withCommand 0x00000001#32) :=
  stepPerformsLatchedCommand _ _ .init rfl ((decode_eq_init_iff _).mpr rfl)

/-- Settles O10: INIT's effect and its error, its one word, and both steps from reset. -/
theorem initDerivesFrobeniusConstant : Obligations.InitDerivesFrobeniusConstant := by
  refine ⟨fun _ => exec_init, frobeniusConstant_eq, fun _ => failsWith_reinit, decode_eq_init_iff, ?_⟩
  have hfirst := (step_withCommand_init State.reset).trans (exec_init rfl)
  exact ⟨_, _, hfirst, rfl, (step_withCommand_init _).trans (failsWith_reinit rfl), rfl⟩

/-! ## The registers a command leaves as they are (10_state.md, who reads and writes what) -/

/-- A write of a command's destination keeps every register that is not the destination. -/
theorem fileWrite_of_not_dest {α : Type} {n : Nat} (file : Vector (Option α) n) (ref : RegIx → RegRef) {i : Instr} {d r : RegIx}
    (v : α) (hw : i.writes = some (ref d)) (hr : i.writes ≠ some (ref r)) :
    (fileWrite file d v)[r.toNat]? = file[r.toNat]? :=
  fileWrite_other_ix file v fun h => hr (h ▸ hw)

/-- Each form of an effect writes at most one file, at the command's destination. -/
theorem EffectForm.registers {s e : State} {i : Instr} (h : EffectForm s i e) :
    (∀ r : RegIx, i.writes ≠ some (.x r) → e.x[r.toNat]? = s.x[r.toNat]?) ∧
    (∀ r : RegIx, i.writes ≠ some (.p r) → e.p[r.toNat]? = s.p[r.toNat]?) ∧
    (∀ r : RegIx, i.writes ≠ some (.q r) → e.q[r.toNat]? = s.q[r.toNat]?) ∧
    (∀ r : RegIx, i.writes ≠ some (.k r) → e.k[r.toNat]? = s.k[r.toNat]?) := by
  cases h with
  | writeX d v hw => exact ⟨fun _ => fileWrite_of_not_dest s.x .x v hw, fun _ _ => rfl, fun _ _ => rfl, fun _ _ => rfl⟩
  | writeP d pt hw => exact ⟨fun _ _ => rfl, fun _ => fileWrite_of_not_dest s.p .p pt hw, fun _ _ => rfl, fun _ _ => rfl⟩
  | writeQ d g hw => exact ⟨fun _ _ => rfl, fun _ _ => rfl, fun _ => fileWrite_of_not_dest s.q .q g hw, fun _ _ => rfl⟩
  | writeK d k hw => exact ⟨fun _ _ => rfl, fun _ _ => rfl, fun _ _ => rfl, fun _ => fileWrite_of_not_dest s.k .k k hw⟩
  | nothing | init | storeX | storeP | result => simp

/-- Settles O46: a completed command's effect writes its destination alone, and the error entry writes no register. -/
theorem onlyDestinationRegisterChanges : Obligations.OnlyDestinationRegisterChanges := by
  intro i s t ht
  obtain ⟨e, heff, rfl⟩ | ⟨c, rfl⟩ := exec_cases ht
  · exact (effectForm_of_effect heff).registers
  · exact ⟨fun _ _ => rfl, fun _ _ => rfl, fun _ _ => rfl, fun _ _ => rfl⟩

end Sys2Proof.Machine
end

section
/-! SUPPORT. Fp12 as a commutative ring of characteristic q, and the q-th power on each floor of the tower: conj2 on Fp2, φ4 on Fp4,
φ on Fp12 (40_tower.md R151–R153, R166). -/

namespace Sys2Proof.Machine

/-! ## Fp12 as a ring (40_tower.md R153) -/

/-- Fp12 as its three coefficients. -/
def Fp12.coeffs : Fp12 ≃ Fp4 × Fp4 × Fp4 :=
  { toFun := fun x => (x.a, x.b, x.c)
    invFun := fun p => ⟨p.1, p.2.1, p.2.2⟩
    left_inv := fun _ => rfl
    right_inv := fun _ => rfl }

protected theorem Fp12.mul_zero (x : Fp12) : x.mul Fp12.zero = Fp12.zero := by
  let := fp4Ring
  refine Fp12.ext ?_ ?_ ?_
  · rw [Fp12.mul_a]
    change x.a * 0 + x.b * 0 + x.c * 0 = 0
    ring
  · rw [Fp12.mul_b]
    change x.b * 0 + x.c * 0 + Fp4.v * (x.a * 0) = 0
    ring
  · rw [Fp12.mul_c]
    change x.c * 0 + Fp4.v * (x.b * 0 + x.a * 0) = 0
    ring

/-- The sum of Fp12 is the sum of the coefficients. -/
@[reducible] def fp12AddGroup : AddCommGroup Fp12 :=
  letI := fp4Ring
  Fp12.coeffs.addCommGroup

protected theorem Fp12.mul_add (x y z : Fp12) : (letI := fp12AddGroup; x.mul (y + z) = x.mul y + x.mul z) := by
  let := fp4Ring
  let := fp12AddGroup
  have ha (x y : Fp12) : (x + y).a = x.a + y.a := rfl
  have hb (x y : Fp12) : (x + y).b = x.b + y.b := rfl
  have hc (x y : Fp12) : (x + y).c = x.c + y.c := rfl
  refine Fp12.ext ?_ ?_ ?_
  · simp only [Fp12.mul_a, ha, hb, hc]; ring
  · simp only [Fp12.mul_b, ha, hb, hc]; ring
  · simp only [Fp12.mul_c, ha, hb, hc]; ring

/-- Fp12 as a ring: the model's product, and the sum of the coefficients. Like the rings of the lower floors, no global rule. -/
@[reducible] def fp12Ring : CommRing Fp12 :=
  { fp12AddGroup, fp12Monoid with
    left_distrib := Fp12.mul_add
    right_distrib := fun x y z => by
      let := fp12AddGroup
      change (x + y).mul z = x.mul z + y.mul z
      rw [Fp12.mul_comm, Fp12.mul_add, Fp12.mul_comm z, Fp12.mul_comm z]
    mul_zero := Fp12.mul_zero
    zero_mul := fun x => (Fp12.mul_comm _ x).trans (Fp12.mul_zero x) }

/-! ## The floors lie in one another, and have characteristic q -/

/-- Fp in Fp2. -/
def Fp2.ofFpHom : (letI := fpRing; letI := fp2Ring; Fp →+* Fp2) :=
  letI := fpRing
  letI := fp2Ring
  { toFun := Fp2.ofFp
    map_one' := rfl
    map_zero' := rfl
    map_add' := fun x y => Fp2.ext rfl (add_zero 0).symm
    map_mul' := fun x y => Fp2.ext
      (by change x * y = x * y + Fp.beta * (0 * 0); ring)
      (by change 0 = x * 0 + 0 * y; ring) }

/-- Fp2 in Fp4. -/
def Fp4.ofFp2Hom : (letI := fp2Ring; letI := fp4Ring; Fp2 →+* Fp4) :=
  letI := fp2Ring
  letI := fp4Ring
  { toFun := fun x => ⟨x, Fp2.zero⟩
    map_one' := rfl
    map_zero' := rfl
    map_add' := fun x y => Fp4.ext rfl (add_zero 0).symm
    map_mul' := fun x y => Fp4.ext
      (by change x * y = (Fp4.mul ⟨x, 0⟩ ⟨y, 0⟩).y0; rw [Fp4.mul_y0]; ring)
      (by change 0 = x * 0 + 0 * y; ring) }

/-- Fp4 in Fp12. -/
def Fp12.ofFp4Hom : (letI := fp4Ring; letI := fp12Ring; Fp4 →+* Fp12) :=
  letI := fp4Ring
  letI := fp12Ring
  { toFun := fun x => ⟨Fp4.zero, Fp4.zero, x⟩
    map_one' := rfl
    map_zero' := rfl
    map_add' := fun x y => Fp12.ext (add_zero 0).symm (add_zero 0).symm rfl
    map_mul' := fun x y => Fp12.ext
      (by change 0 = 0 * y + 0 * 0 + x * 0; ring)
      (by change 0 = (Fp12.mul ⟨0, 0, x⟩ ⟨0, 0, y⟩).b; rw [Fp12.mul_b]; ring)
      (by change x * y = (Fp12.mul ⟨0, 0, x⟩ ⟨0, 0, y⟩).c; rw [Fp12.mul_c]; ring) }

theorem Fp.charP : (letI := fpRing; CharP Fp Config.q) :=
  @Fin.charP Config.q fpNeZero

theorem Fp2.charP : (letI := fp2Ring; CharP Fp2 Config.q) := by
  let := fpRing
  let := fp2Ring
  have := Fp.charP
  exact charP_of_injective_ringHom (f := Fp2.ofFpHom) (fun _ _ h => congrArg Fp2.x0 h) _

theorem Fp4.charP : (letI := fp4Ring; CharP Fp4 Config.q) := by
  let := fp2Ring
  let := fp4Ring
  have := Fp2.charP
  exact charP_of_injective_ringHom (f := Fp4.ofFp2Hom) (fun _ _ h => congrArg Fp4.y0 h) _

theorem Fp12.charP : (letI := fp12Ring; CharP Fp12 Config.q) := by
  let := fp4Ring
  let := fp12Ring
  have := Fp4.charP
  exact charP_of_injective_ringHom (f := Fp12.ofFp4Hom) (fun _ _ h => congrArg Fp12.c h) _

/-! ## The q-th power on each floor -/

/-- The q-th power of a value whose `m`-th power is known. -/
theorem pow_q_eq {M : Type} [Monoid M] (x : M) {m n : Nat} (h : m * n + 1 = Config.q) : x ^ Config.q = (x ^ m) ^ n * x := by
  rw [← pow_mul, ← pow_succ, h]

theorem Fp.pow_q (x : Fp) : (letI := fpRing; x ^ Config.q = x) := by
  let := fpRing
  rw [pow_q_eq x (m := Config.q - 1) (n := 1) (by decide), pow_one]
  by_cases hx : x = Fp.zero
  · rw [hx]
    exact mul_zero _
  · rw [Fp.pow_q_sub_one hx, one_mul]

/-- The q-th power is additive where q is the characteristic. -/
theorem add_mul_pow_q {R : Type} [CommRing R] [CharP R Config.q] (x y g : R) :
    (x + y * g) ^ Config.q = x ^ Config.q + y ^ Config.q * g ^ Config.q := by
  have : Fact Config.q.Prime := ⟨q_prime⟩
  rw [add_pow_char, mul_pow]

theorem Fp2.mk_eq (x0 x1 : Fp) :
    (⟨x0, x1⟩ : Fp2) = (letI := fpRing; letI := fp2Ring; Fp2.ofFpHom x0 + Fp2.ofFpHom x1 * Fp2.u) := by
  let := fpRing
  refine Fp2.ext ?_ ?_
  · change x0 = x0 + (x1 * 0 + Fp.beta * (0 * 1))
    ring
  · change x1 = 0 + (x1 * 1 + 0 * 0)
    ring

/-- β = u² is no square, so its power (q−1)/2 is −1. -/
theorem Fp2.u_pow_q_sub_one : (letI := fp2Ring; Fp2.u ^ (Config.q - 1) = -1) := by
  let := fp2Ring
  rw [← Fp2.pow_eq Fp2.u (by decide)]
  change Fp2.u.pow (Config.q - 1) = Fp2.one.neg
  decide +kernel

theorem Fp2.u_pow_q : (letI := fp2Ring; Fp2.u ^ Config.q = -Fp2.u) := by
  let := fp2Ring
  rw [pow_q_eq Fp2.u (m := Config.q - 1) (n := 1) (by decide), pow_one, Fp2.u_pow_q_sub_one, neg_one_mul]

/-- conj2 is the q-th power (40_tower.md R151). -/
theorem Fp2.pow_q (x : Fp2) : (letI := fp2Ring; x ^ Config.q = x.conj) := by
  let := fpRing
  let := fp2Ring
  have := Fp2.charP
  calc x ^ Config.q = (Fp2.ofFpHom x.x0 + Fp2.ofFpHom x.x1 * Fp2.u) ^ Config.q := by rw [← Fp2.mk_eq]
    _ = Fp2.ofFpHom x.x0 + Fp2.ofFpHom (-x.x1) * Fp2.u := by
      rw [add_mul_pow_q, ← map_pow, ← map_pow, Fp.pow_q, Fp.pow_q, Fp2.u_pow_q, map_neg, neg_mul_comm]
    _ = x.conj := by rw [← Fp2.mk_eq, ← Fp.neg_eq]; rfl

theorem Fp4.mk_eq (y0 y1 : Fp2) :
    (⟨y0, y1⟩ : Fp4) = (letI := fp2Ring; letI := fp4Ring; Fp4.ofFp2Hom y0 + Fp4.ofFp2Hom y1 * Fp4.v) := by
  let := fp2Ring
  refine Fp4.ext ?_ ?_
  · change y0 = y0 + (Fp4.mul ⟨y1, 0⟩ ⟨0, 1⟩).y0
    rw [Fp4.mul_y0]
    ring
  · change y1 = 0 + (y1 * 1 + 0 * 0)
    ring

theorem Fp4.v_sq : (letI := fp2Ring; letI := fp4Ring; Fp4.v ^ 2 = Fp4.ofFp2Hom Fp2.u) := by
  let := fp4Ring
  rw [pow_two]
  change Fp4.v.mul Fp4.v = ⟨Fp2.u, Fp2.zero⟩
  decide

theorem frobeniusConstant_eq_pow : frobeniusConstant = (letI := fp2Ring; Fp2.u ^ ((Config.q - 1) / 6)) :=
  Fp2.pow_eq Fp2.u (by decide)

/-- v² = u makes the power q − 1 of v the cube of F. -/
theorem Fp4.v_pow_q : (letI := fp2Ring; letI := fp4Ring;
    Fp4.v ^ Config.q = Fp4.ofFp2Hom (frobeniusConstant ^ 3) * Fp4.v) := by
  let := fp2Ring
  let := fp4Ring
  rw [pow_q_eq Fp4.v (m := 2) (n := (Config.q - 1) / 6 * 3) (by decide), Fp4.v_sq, ← map_pow, pow_mul,
    frobeniusConstant_eq_pow]

/-- φ4 is the q-th power (40_tower.md R166). -/
theorem Fp4.pow_q (y : Fp4) : (letI := fp4Ring; y ^ Config.q = Fp12.phi4 frobeniusConstant y) := by
  let := fp2Ring
  let := fp4Ring
  have := Fp4.charP
  calc y ^ Config.q = (Fp4.ofFp2Hom y.y0 + Fp4.ofFp2Hom y.y1 * Fp4.v) ^ Config.q := by rw [← Fp4.mk_eq]
    _ = Fp4.ofFp2Hom y.y0.conj + Fp4.ofFp2Hom (y.y1.conj * frobeniusConstant ^ 3) * Fp4.v := by
      rw [add_mul_pow_q, ← map_pow, ← map_pow, Fp2.pow_q, Fp2.pow_q, Fp4.v_pow_q, map_mul, mul_assoc]
    _ = Fp12.phi4 frobeniusConstant y := by rw [← Fp4.mk_eq, ← Fp2.pow_eq _ (by decide)]; rfl

/-- The generator w of Fp12. -/
def Fp12.w : Fp12 := ⟨Fp4.zero, Fp4.one, Fp4.zero⟩

theorem Fp12.mul_w (x : Fp12) : x.mul Fp12.w = ⟨x.b, x.c, Fp4.v.mul x.a⟩ := by
  let := fp4Ring
  refine Fp12.ext ?_ ?_ ?_
  · change x.a * 0 + x.b * 1 + x.c * 0 = x.b
    ring
  · rw [Fp12.mul_b]
    change x.b * 0 + x.c * 1 + Fp4.v * (x.a * 0) = x.c
    ring
  · rw [Fp12.mul_c]
    change x.c * 0 + Fp4.v * (x.b * 0 + x.a * 1) = Fp4.v * x.a
    ring

theorem Fp12.mk_eq (a b c : Fp4) : (⟨a, b, c⟩ : Fp12) = (letI := fp4Ring; letI := fp12Ring;
    Fp12.ofFp4Hom c + (Fp12.ofFp4Hom b + Fp12.ofFp4Hom a * Fp12.w) * Fp12.w) := by
  let := fp4Ring
  let := fp12Ring
  change _ = Fp12.ofFp4Hom c + ((Fp12.ofFp4Hom b + (Fp12.ofFp4Hom a).mul Fp12.w).mul Fp12.w)
  rw [Fp12.mul_w, Fp12.mul_w]
  refine Fp12.ext ?_ ?_ ?_
  · change a = 0 + (0 + a)
    ring
  · change b = 0 + (b + Fp4.v * 0)
    ring
  · change c = c + Fp4.v * (0 + 0)
    ring

theorem Fp12.w_pow_six : (letI := fp2Ring; letI := fp4Ring; letI := fp12Ring;
    Fp12.w ^ 6 = Fp12.ofFp4Hom (Fp4.ofFp2Hom Fp2.u)) := by
  let := fp2Ring
  let := fp4Ring
  let := fp12Ring
  have hcube : Fp12.w ^ 3 = Fp12.ofFp4Hom Fp4.v := by
    rw [pow_three]
    change Fp12.w.mul (Fp12.w.mul Fp12.w) = ⟨Fp4.zero, Fp4.zero, Fp4.v⟩
    decide
  rw [← Fp4.v_sq, map_pow, ← hcube, ← pow_mul]

/-- w⁶ = u makes the power q − 1 of w the constant F. -/
theorem Fp12.w_pow_q : (letI := fp2Ring; letI := fp4Ring; letI := fp12Ring;
    Fp12.w ^ Config.q = Fp12.ofFp4Hom (Fp4.ofFp2Hom frobeniusConstant) * Fp12.w) := by
  let := fp2Ring
  let := fp4Ring
  let := fp12Ring
  rw [pow_q_eq Fp12.w (m := 6) (n := (Config.q - 1) / 6) (by decide), Fp12.w_pow_six, ← map_pow, ← map_pow,
    frobeniusConstant_eq_pow]

theorem Fp4.scale2_eq (k : Fp2) (y : Fp4) : y.scale2 k = (letI := fp2Ring; letI := fp4Ring; y * Fp4.ofFp2Hom k) := by
  let := fp2Ring
  refine Fp4.ext ?_ ?_
  · change y.y0 * k = (y.mul ⟨k, 0⟩).y0
    rw [Fp4.mul_y0]
    ring
  · change y.y1 * k = y.y0 * 0 + y.y1 * k
    ring

/-- φ is the q-th power (40_tower.md R166). -/
theorem Fp12.pow_q (x : Fp12) : (letI := fp12Ring; x ^ Config.q = x.phi frobeniusConstant) := by
  let := fp2Ring
  let := fp4Ring
  let := fp12Ring
  have := Fp12.charP
  calc x ^ Config.q
      = (Fp12.ofFp4Hom x.c + (Fp12.ofFp4Hom x.b + Fp12.ofFp4Hom x.a * Fp12.w) * Fp12.w) ^ Config.q := by
        rw [← Fp12.mk_eq]
    _ = Fp12.ofFp4Hom (Fp12.phi4 frobeniusConstant x.c) +
          (Fp12.ofFp4Hom (Fp12.phi4 frobeniusConstant x.b * Fp4.ofFp2Hom frobeniusConstant) +
            Fp12.ofFp4Hom (Fp12.phi4 frobeniusConstant x.a * Fp4.ofFp2Hom (frobeniusConstant ^ 2)) * Fp12.w) * Fp12.w := by
        rw [add_mul_pow_q, add_mul_pow_q, ← map_pow, ← map_pow, ← map_pow, Fp4.pow_q, Fp4.pow_q, Fp4.pow_q, Fp12.w_pow_q,
          map_mul, map_mul, map_pow, map_pow]
        ring
    _ = x.phi frobeniusConstant := by
        rw [← Fp12.mk_eq, ← Fp4.scale2_eq, ← Fp4.scale2_eq, ← Fp2.pow_eq _ (by decide)]
        rfl

end Sys2Proof.Machine
end

section
/-! SUPPORT. The Frobenius map with the constant INIT derives: FROB is the power q^k, its even iterates scale the coefficients,
FROBP keeps the twist, and MEMBER tests the order (40_tower.md R166, 42_pairing.md R235, R250). -/

namespace Sys2Proof.Machine

/-! ## FROB as a power (40_tower.md R166) -/

/-- The exact power as the power of the ring. -/
theorem Fp12.nthPower_eq_ringPow (x : Fp12) (n : Nat) : x.nthPower n = (letI := fp12Ring; x ^ n) :=
  Fp12.nthPower_eq_pow x n

/-- Settles O26: one φ is the q-th power, and powers of powers multiply. -/
theorem frobIsPowerOfQ : Obligations.FrobIsPowerOfQ := by
  intro x k
  let := fp12Ring
  rw [Fp12.nthPower_eq_ringPow]
  induction k generalizing x with
  | zero => exact (pow_one x).symm
  | succ k ih => rw [Fp12.frob, ih, ← Fp12.pow_q, ← pow_mul, ← pow_succ']

/-! ## conj2, and F in Fp -/

theorem Fp2.conj_mul (x y : Fp2) : (x.mul y).conj = x.conj.mul y.conj := by
  let := fp2Ring
  rw [← Fp2.pow_q, ← Fp2.pow_q, ← Fp2.pow_q]
  exact mul_pow x y _

theorem Fp2.conj_conj (x : Fp2) : x.conj.conj = x := Fp2.ext rfl (Fp.neg_neg_eq_self x.x1)

theorem Fp2.conj_add (x y : Fp2) : (x.add y).conj = x.conj.add y.conj := by
  let := fpRing
  refine Fp2.ext rfl ?_
  simp only [Fp2.conj, Fp2.add, Fp.neg_eq]
  exact neg_add _ _

/-- F lies in Fp (43_system.md R282). -/
theorem frobeniusConstant_conj : frobeniusConstant.conj = frobeniusConstant := by
  rw [frobeniusConstant_eq]
  decide

theorem frobeniusConstant_ne_zero : frobeniusConstant ≠ Fp2.zero := by
  rw [frobeniusConstant_eq]
  decide

theorem frobeniusConstant_pow_six : (letI := fp2Ring; frobeniusConstant ^ 6 = -1) := by
  let := fp2Ring
  rw [frobeniusConstant_eq_pow, ← pow_mul, show (Config.q - 1) / 6 * 6 = Config.q - 1 by decide, Fp2.u_pow_q_sub_one]

/-! ## The even iterates of φ (40_tower.md R166) -/

/-- The value with w replaced by k·w. -/
def Fp12.scaleW (k : Fp2) (x : Fp12) : Fp12 :=
  letI := fp2Ring
  ⟨⟨x.a.y0 * k ^ 2, x.a.y1 * k ^ 5⟩, ⟨x.b.y0 * k, x.b.y1 * k ^ 4⟩, ⟨x.c.y0, x.c.y1 * k ^ 3⟩⟩

theorem Fp12.scaleW_one (x : Fp12) : (letI := fp2Ring; x.scaleW 1 = x) := by
  let := fp2Ring
  simp [Fp12.scaleW]

theorem Fp12.scaleW_neg_one (x : Fp12) : (letI := fp2Ring; x.scaleW (-1) = x.conj) := by
  let := fp2Ring
  rw [Fp12.scaleW, Fp12.conj, Fp4.conj, Fp4.conj, Fp4.conj, Fp4.neg]
  simp only [Fp2.neg_eq]
  congr 2 <;> ring

theorem Fp12.scaleW_scaleW (k l : Fp2) (x : Fp12) : (letI := fp2Ring; (x.scaleW k).scaleW l = x.scaleW (k * l)) := by
  let := fp2Ring
  simp [Fp12.scaleW, mul_pow, mul_assoc]

/-- Two conj2 cancel, so φ twice only scales. -/
theorem Fp12.phi_phi {f : Fp2} (hf : f.conj = f) (x : Fp12) : (letI := fp2Ring; (x.phi f).phi f = x.scaleW (f ^ 2)) := by
  let := fp2Ring
  rw [Fp12.phi_eq, Fp12.phi_eq, Fp12.scaleW]
  simp only [Fp2.conj_mul, Fp2.conj_conj, hf]
  simp only [Fp2.mul_eq]
  congr 2 <;> ring

theorem Fp12.frob_two_mul {f : Fp2} (hf : f.conj = f) (k : Nat) (x : Fp12) :
    (letI := fp2Ring; x.frob f (2 * k) = x.scaleW (f ^ (2 * k))) := by
  let := fp2Ring
  induction k generalizing x with
  | zero => exact (Fp12.scaleW_one x).symm
  | succ k ih =>
    rw [Nat.mul_succ, Fp12.frob, Fp12.frob, ih, Fp12.phi_phi hf, Fp12.scaleW_scaleW, ← pow_add, Nat.add_comm]

/-- Settles O25: F⁶ = −1, so the sixth iterate replaces w by −w, and the twelfth by w. -/
theorem frobSixIsConjTwelveIsIdentity : Obligations.FrobSixIsConjTwelveIsIdentity := by
  intro x
  let := fp2Ring
  constructor
  · rw [Fp12.frob_two_mul frobeniusConstant_conj 3, frobeniusConstant_pow_six, Fp12.scaleW_neg_one]
  · rw [Fp12.frob_two_mul frobeniusConstant_conj 6, pow_mul frobeniusConstant 6 2, frobeniusConstant_pow_six, neg_one_sq,
      Fp12.scaleW_one]

/-! ## FROBP on the twist (42_pairing.md R235, R236) -/

theorem frobeniusConstant_inv_pow_six : (letI := fp2Ring; frobeniusConstant.inv ^ 6 = -1) := by
  let := fp2Ring
  have hinv : frobeniusConstant * frobeniusConstant.inv = 1 := Fp2.mul_inv frobeniusConstant_ne_zero
  have hpow := congrArg (· ^ 6) hinv
  simp only [mul_pow, frobeniusConstant_pow_six, one_pow] at hpow
  linear_combination -hpow

/-- Settles O35: conj2 of the twist's equation, whose constant changes sign, times F⁻⁶ = −1. -/
theorem frobpKeepsTwist : Obligations.FrobpKeepsTwist := by
  intro p hp
  let := fp2Ring
  have hconj := congrArg Fp2.conj hp
  have h5 : Fp2.conj ⟨Fp.zero, Fp.ofNat 5⟩ = Fp2.neg ⟨Fp.zero, Fp.ofNat 5⟩ := by decide
  rw [Fp2.conj_add, Fp2.conj_mul, Fp2.conj_mul, Fp2.conj_mul, h5] at hconj
  simp only [Fp2.mul_eq, Fp2.add_eq, Fp2.neg_eq] at hconj
  rw [frobAffine_eq, Affine2.OnTwist]
  simp only [Fp2.mul_eq, Fp2.add_eq]
  linear_combination frobeniusConstant.inv ^ 6 * hconj - (⟨Fp.zero, Fp.ofNat 5⟩ : Fp2) * frobeniusConstant_inv_pow_six

/-! ## MEMBER's test (42_pairing.md R250) -/

theorem Fp12.isUnit {x : Fp12} (h : x ≠ Fp12.zero) : (letI := fp12Ring; IsUnit x) := by
  let := fp12Ring
  exact IsUnit.of_mul_eq_one x.inv (Fp12.mul_inv h)

/-- q = N + 6·t². -/
theorem q_eq_N_add : Config.q = Config.N + Config.t * Config.t * 6 := by decide

theorem memberValue_exact {x : Fp12} (h : x ≠ Fp12.zero) :
    memberValue frobeniusConstant x false = true ↔ x.nthPower Config.N = Fp12.one := by
  let := fp12Ring
  have ht : Config.t ≠ 0 := by decide
  rw [memberValue_of_ne_zero h, powChain_exact _ ht, powChain_exact _ ht, powChain_exact _ (by decide), ← Fp12.pow_q]
  simp only [Fp12.nthPower_eq_ringPow]
  rw [← pow_mul, ← pow_mul, q_eq_N_add, pow_add]
  exact ((Fp12.isUnit h).pow _).mul_eq_right

/-- Settles O42: for U = 0 MEMBER compares x^q with x^(6t²), which differ by the factor x^N. -/
theorem memberTestsOrderN : Obligations.MemberTestsOrderN := by
  intro a s x hd hf hx hu hne
  refine ⟨_, exec_of_effect (i := .member a) ⟨hd, x, _, hx, hf, rfl⟩, ?_⟩
  change memberValue frobeniusConstant x.val x.u = true ↔ _
  rw [hu, memberValue_exact hne]

end Sys2Proof.Machine
end
